-- ==== Sys2Proof/Word.lean ====
section
/-! DEFINITION. The widths of the block's data: frame buffer words, bytes of the staging buffer, control words and
command words (00_scope.md R8, 10_state.md R10, R21, 30_encoding.md R60, R67). -/

namespace Sys2Proof

/-- A 16-bit word: a word of the frame buffer (10_state.md R10) or an operand slot (30_encoding.md R67). -/
abbrev Word := BitVec 16

/-- A byte of the staging buffer (10_state.md R21). -/
abbrev Byte := BitVec 8

/-- A chip's 32-bit control word (30_encoding.md R60). -/
abbrev CtlWord := BitVec 32

/-- A 72-bit command word of the port `cmd` (30_encoding.md R67). -/
abbrev CmdWord := BitVec 72

end Sys2Proof
end

