-- ==== Sys2Proof/Syntax.lean ====
section
/-! DEFINITION. The thirteen host commands with their decoded operands (30_encoding.md R68, R69). -/

namespace Sys2Proof

/-- A host command: one constructor per row of the opcode map (30_encoding.md R69). Operands are as R68 decodes
them: an index, a grayscale value, a brightness or a boolean is its whole 16-bit slot, `hz` the two slots `w` and `x`
together, `maskEn` the one bit `z[0]`. Slots a command does not use are no part of it. -/
inductive Instr where
  /-- `SETCH idx, val` (42_channel_ops.md R120). -/
  | setch (idx val : Word)
  /-- `GETCH idx` (42_channel_ops.md R121). -/
  | getch (idx : Word)
  /-- `SETRGB led, r, g, b` (42_channel_ops.md R122). -/
  | setrgb (led r g b : Word)
  /-- `SETRGBALL r, g, b` (42_channel_ops.md R123). -/
  | setrgball (r g b : Word)
  /-- `SETBC chipIdx, bcr, bcg, bcb` (41_command_word_builder.md R101). -/
  | setbc (chipIdx bcr bcg bcb : Word)
  /-- `SETBCALL bcr, bcg, bcb` (41_command_word_builder.md R102). -/
  | setbcall (bcr bcg bcb : Word)
  /-- `SETTMGRST val` (41_command_word_builder.md R103). -/
  | settmgrst (val : Word)
  /-- `RESET` (42_channel_ops.md R124). -/
  | reset
  /-- `CFGBULK hz, settle_us, mask_en` (43_transferer.md R142). -/
  | cfgbulk (hz : BitVec 32) (settleUs : Word) (maskEn : Bool)
  /-- `CFGWORD hz, settle_us, mask_en` (43_transferer.md R143). -/
  | cfgword (hz : BitVec 32) (settleUs : Word) (maskEn : Bool)
  /-- `CFGBB clk_pin, data_pin, settle_us, mask_en` (43_transferer.md R144). -/
  | cfgbb (clkPin dataPin settleUs : Word) (maskEn : Bool)
  /-- `END` (43_transferer.md R146). -/
  | endcfg
  /-- `WRITE` (43_transferer.md R147). -/
  | write
deriving DecidableEq, Repr

end Sys2Proof
end

