-- ==== Sys2Proof/WellFormed.lean ====
section
/-! DEFINITION. Well-formedness of a command. "Operand values outside a range are legal encodings and select nothing"
(20_memory.md R40), and a brightness operand above 127 or any `val`, hertz, pin or delay value is taken as is
(30_encoding.md R68): the operands' widths are in the types of `Instr`, so every command is well formed and no check is
left to refuse one. What can be ill formed is a command WORD (a reserved opcode, a set bit in a slot that is not used):
`wellFormedWord` of Sys2Proof/Decode.lean. -/

namespace Sys2Proof

/-- Every command with operands of the types' widths has an encoding (30_encoding.md R67, R68). -/
def Instr.wellFormed : Instr → Bool
  | .setch _ _ => true
  | .getch _ => true
  | .setrgb _ _ _ _ => true
  | .setrgball _ _ _ => true
  | .setbc _ _ _ _ => true
  | .setbcall _ _ _ => true
  | .settmgrst _ => true
  | .reset => true
  | .cfgbulk _ _ _ => true
  | .cfgword _ _ _ => true
  | .cfgbb _ _ _ _ => true
  | .endcfg => true
  | .write => true

end Sys2Proof
end

