-- ==== Sys2Proof/Decode.lean ====
section
/-! DEFINITION. Decoding a 72-bit command word and encoding a command (30_encoding.md R67 to R70, R72). A decoder looks at
`op` only; slots a command does not use are ignored; an encoder sets them to zero (R72). -/

namespace Sys2Proof

/-- `op`, bits 71:64 of a command word (30_encoding.md R67). -/
def opField (c : CmdWord) : BitVec 8 := c.extractLsb' 64 8

/-- `w`, bits 63:48, the first operand slot (30_encoding.md R67). -/
def slotW (c : CmdWord) : Word := c.extractLsb' 48 16

/-- `x`, bits 47:32, the second operand slot (30_encoding.md R67). -/
def slotX (c : CmdWord) : Word := c.extractLsb' 32 16

/-- `y`, bits 31:16, the third operand slot (30_encoding.md R67). -/
def slotY (c : CmdWord) : Word := c.extractLsb' 16 16

/-- `z`, bits 15:0, the fourth operand slot (30_encoding.md R67). -/
def slotZ (c : CmdWord) : Word := c.extractLsb' 0 16

/-- `SPI_HZ` operand: `(w << 16) | x` (30_encoding.md R68). -/
def hertzOperand (c : CmdWord) : BitVec 32 := slotW c ++ slotX c

/-- `MASK_EN` operand: `z[0]`; `z[15:1]` is ignored (30_encoding.md R68). -/
def maskOperand (c : CmdWord) : Bool := (slotZ c).getLsbD 0

/-- What a command word is: a command, or a word with a reserved opcode, rejected by its opcode
(30_encoding.md R69, R70). -/
inductive Decoded where
  | instr (i : Instr)
  | reserved (op : BitVec 8)
deriving DecidableEq, Repr

/-- The opcode map (30_encoding.md R69). Total: every opcode it does not list is reserved (R70). -/
def decode (c : CmdWord) : Decoded :=
  match (opField c).toNat with
  | 0x01 => .instr (.setch (slotW c) (slotX c))
  | 0x02 => .instr (.getch (slotW c))
  | 0x03 => .instr (.setrgb (slotW c) (slotX c) (slotY c) (slotZ c))
  | 0x04 => .instr (.setrgball (slotX c) (slotY c) (slotZ c))
  | 0x05 => .instr (.setbc (slotW c) (slotX c) (slotY c) (slotZ c))
  | 0x06 => .instr (.setbcall (slotX c) (slotY c) (slotZ c))
  | 0x07 => .instr (.settmgrst (slotW c))
  | 0x08 => .instr .reset
  | 0x10 => .instr (.cfgbulk (hertzOperand c) (slotY c) (maskOperand c))
  | 0x11 => .instr (.cfgword (hertzOperand c) (slotY c) (maskOperand c))
  | 0x12 => .instr (.cfgbb (slotW c) (slotX c) (slotY c) (maskOperand c))
  | 0x13 => .instr .endcfg
  | 0x14 => .instr .write
  | _ => .reserved (opField c)

/-- Format K: `op | w | x | y | z`, `op` highest (30_encoding.md R67). -/
def formatK (op : BitVec 8) (w x y z : Word) : CmdWord := op ++ w ++ x ++ y ++ z

/-- The first slot of a hertz operand, `hz[31:16]` (30_encoding.md R68, R69). -/
def hertzHigh (hz : BitVec 32) : Word := hz.extractLsb' 16 16

/-- The second slot of a hertz operand, `hz[15:0]` (30_encoding.md R68, R69). -/
def hertzLow (hz : BitVec 32) : Word := hz.extractLsb' 0 16

/-- The slot `z` of a mask flag, bits 15:1 zero (30_encoding.md R68, R72). -/
def maskSlot (maskEn : Bool) : Word := if maskEn then 1 else 0

/-- The opcode of a command (30_encoding.md R69). -/
def Instr.opcode : Instr → BitVec 8
  | .setch _ _ => 0x01
  | .getch _ => 0x02
  | .setrgb _ _ _ _ => 0x03
  | .setrgball _ _ _ => 0x04
  | .setbc _ _ _ _ => 0x05
  | .setbcall _ _ _ => 0x06
  | .settmgrst _ => 0x07
  | .reset => 0x08
  | .cfgbulk _ _ _ => 0x10
  | .cfgword _ _ _ => 0x11
  | .cfgbb _ _ _ _ => 0x12
  | .endcfg => 0x13
  | .write => 0x14

/-- The command word of a command, slots not used assembled as zero (30_encoding.md R69, R72). -/
def encode : Instr → CmdWord
  | .setch idx val => formatK 0x01 idx val 0 0
  | .getch idx => formatK 0x02 idx 0 0 0
  | .setrgb led r g b => formatK 0x03 led r g b
  | .setrgball r g b => formatK 0x04 0 r g b
  | .setbc chipIdx bcr bcg bcb => formatK 0x05 chipIdx bcr bcg bcb
  | .setbcall bcr bcg bcb => formatK 0x06 0 bcr bcg bcb
  | .settmgrst val => formatK 0x07 val 0 0 0
  | .reset => formatK 0x08 0 0 0 0
  | .cfgbulk hz settleUs maskEn => formatK 0x10 (hertzHigh hz) (hertzLow hz) settleUs (maskSlot maskEn)
  | .cfgword hz settleUs maskEn => formatK 0x11 (hertzHigh hz) (hertzLow hz) settleUs (maskSlot maskEn)
  | .cfgbb clkPin dataPin settleUs maskEn => formatK 0x12 clkPin dataPin settleUs (maskSlot maskEn)
  | .endcfg => formatK 0x13 0 0 0 0
  | .write => formatK 0x14 0 0 0 0

/-- The bits of a command word that its opcode makes use of: the letters `w`, `x`, `y`, `z` and the opcode bits of the
row's `encoding` (30_encoding.md R69); for a reserved opcode the opcode alone. -/
def usedBits (op : BitVec 8) : CmdWord :=
  match op.toNat with
  | 0x01 => formatK 0xFF 0xFFFF 0xFFFF 0 0
  | 0x02 => formatK 0xFF 0xFFFF 0 0 0
  | 0x03 => formatK 0xFF 0xFFFF 0xFFFF 0xFFFF 0xFFFF
  | 0x04 => formatK 0xFF 0 0xFFFF 0xFFFF 0xFFFF
  | 0x05 => formatK 0xFF 0xFFFF 0xFFFF 0xFFFF 0xFFFF
  | 0x06 => formatK 0xFF 0 0xFFFF 0xFFFF 0xFFFF
  | 0x07 => formatK 0xFF 0xFFFF 0 0 0
  | 0x10 => formatK 0xFF 0xFFFF 0xFFFF 0xFFFF 0x0001
  | 0x11 => formatK 0xFF 0xFFFF 0xFFFF 0xFFFF 0x0001
  | 0x12 => formatK 0xFF 0xFFFF 0xFFFF 0xFFFF 0x0001
  | _ => formatK 0xFF 0 0 0 0

/-- The opcodes of the opcode map (30_encoding.md R69); every other opcode is reserved (R70). -/
def definedOpcode (op : BitVec 8) : Bool :=
  (0x01 ≤ op.toNat && op.toNat ≤ 0x08) || (0x10 ≤ op.toNat && op.toNat ≤ 0x14)

/-- A command word as an assembler writes it: a defined opcode, and zero in every bit the command ignores
(30_encoding.md R69, R72). A word that fails this is still taken and executed as R68 and R70 say. -/
def wellFormedWord (c : CmdWord) : Bool :=
  definedOpcode (opField c) && (c &&& ~~~usedBits (opField c)) == 0

/-- The command word whose bits are `w`, numbered as spec/opcode_table.json numbers them (bit 0 the least significant
of the one 72-bit word, bits from `nbits` on zero). The port carries the word whole: no byte order enters
(notes/assumptions/18.md). -/
def tableWord (nbits w : Nat) : CmdWord := BitVec.ofNat 72 (w % 2 ^ nbits)

/-- The command the decoder reads from a table word; none for a reserved opcode. -/
def decodeTableWord (nbits w : Nat) : Option Instr :=
  match decode (tableWord nbits w) with
  | .instr i => some i
  | .reserved _ => none

end Sys2Proof
end

