-- ==== Sys2Proof/Config.lean ====
section
/-! DEFINITION. What an implementation fixes and what the spec leaves free: the chip count and `TMGRST_RESET` of the
one state `State.reset` (00_scope.md R5, R6), and the free values, which are opaque so that no proof can rest on one. -/

namespace Sys2Proof.Config

/-- The chip count `C` of `State.reset` (00_scope.md R5: a model argument, `1..5461`).
DESIGN CHOICE, unsafe: notes/assumptions/1.md. Statements about every state hold for every chip count. -/
def chipCount : Nat := 1

/-- `TMGRST_RESET` of `State.reset` (92_eei_decisions.md D8: open, 0 recommended).
DESIGN CHOICE, unsafe: notes/assumptions/3.md. -/
def tmgrstReset : Bool := false

/-- The byte at an index of the staging buffer after a block transfer, for each drawing: unspecified
(10_state.md R21, U2), a free value. DESIGN CHOICE, safe: notes/assumptions/9.md. -/
opaque staleByte : Nat → Nat → Byte

/-- A level of `SCLK` or `SDATA` after `Teardown(SoftwareBitbang)`, for each drawing: unspecified
(10_state.md R24, U3), a free value. DESIGN CHOICE, safe: notes/assumptions/10.md. -/
opaque releasedLevel : Nat → Bool

end Sys2Proof.Config
end

