-- ==== Sys2Proof/Machine/State.lean ====
section
/-! DEFINITION. The state of the block (10_state.md), the interface events (R27), the reasons to stop, and construction
reset (R31, 70_reset_and_hazards.md R200). -/

namespace Sys2Proof.Machine

/-- `XSTATE`, the Transferer state (10_state.md R15). -/
inductive XState where
  | uninitialized
  | configured
  | ended
deriving DecidableEq, Repr

/-- `MODE`, the transfer strategy (10_state.md R16). -/
inductive Mode where
  | hardwareBulk
  | hardwareWordwise
  | softwareBitbang
deriving DecidableEq, Repr

/-- The waits of a transfer (43_transferer.md R159): the answer a suspended transfer waits for. The model's own
(notes/assumptions/14.md). -/
inductive Wait where
  /-- `per_word_ready`, for the word at offset `tp`. -/
  | wordReady
  /-- `per_block_ready`, for the block in `SB`. -/
  | blockReady
  /-- the completion of the block transfer. -/
  | blockDone
  /-- `delay_done`. -/
  | delayDone
deriving DecidableEq, Repr

/-- The event alphabet (10_state.md R27). -/
inductive Event where
  /-- configure the serial peripheral: clock `hz` hertz, most significant bit first. -/
  | perCfg (hz : BitVec 32)
  /-- configure pins `clk` and `data` as outputs. -/
  | pinCfg (clk data : BitVec 16)
  /-- release the configuration of mode `m`. -/
  | teardown (m : Mode)
  /-- begin the interrupt-masked critical section (`IRQ_MASK` rises). -/
  | irqMask
  /-- end it (`IRQ_MASK` falls). -/
  | irqRestore
  /-- set the data pin level. -/
  | data (b : Bool)
  /-- set the clock pin level. -/
  | clk (l : Bool)
  /-- transfer one 16-bit word through the peripheral. -/
  | word (w : Word)
  /-- transfer a byte list through the peripheral in one block transfer. -/
  | block (bs : List Byte)
  /-- wait `us` microseconds. -/
  | delay (us : Word)
  /-- the GETCH result to the host. -/
  | rsp (v : Word)
deriving DecidableEq, Repr

/-- Everything the spec gives the block (10_state.md R31), and below it the model's own fields: the parameter `C`, the
inputs from outside and the counter of the free values, which one closed step function has to carry. -/
structure State where
  /-- `FB`, the frame buffer: `14*C` words by physical word offset (R10). -/
  fb : List Word
  /-- `FC`, function control: OUTTMG, EXTGCK, TMGRST, DSPRPT, BLANK from bit 4 down (R14). -/
  fc : BitVec 5
  /-- `XSTATE` (R15). -/
  xstate : XState
  /-- `MODE` (R16). -/
  mode : Mode
  /-- `SETTLE_US`, microseconds (R17). -/
  settleUs : BitVec 16
  /-- `MASK_EN` (R18). -/
  maskEn : Bool
  /-- `SPI_HZ`, hertz (R19). -/
  spiHz : BitVec 32
  /-- `CLK_PIN` (R20). -/
  clkPin : BitVec 16
  /-- `DATA_PIN` (R20). -/
  dataPin : BitVec 16
  /-- `SB`, the staging buffer: `28*C` bytes (R21). -/
  sb : List Byte
  /-- `BUSY`, the only status bit (R22). -/
  busy : Bool
  /-- `tp`, the offset of the word being sent (R23; 17 bits for the largest `C`). -/
  tp : BitVec 17
  /-- `tb`, the bit of that word being sent in bit-bang (R23). -/
  tb : BitVec 4
  /-- `IRQ_MASK`, the interrupt-mask request level (R24). -/
  irqMask : Bool
  /-- `SCLK`, the clock output level (R24). -/
  sclk : Bool
  /-- `SDATA`, the data output level (R24). -/
  sdata : Bool
  /-- `OUT`, the output trace, oldest event first (R27). -/
  out : List Event
  /-- The model's own: the structural parameter `C` (00_scope.md R5), changed by no step (notes/assumptions/1.md). -/
  chips : Nat
  /-- The model's own: what a suspended transfer waits for, meaningful only while `BUSY` is set
  (notes/assumptions/14.md). -/
  wait : Wait
  /-- The model's own: the command words the host offers on the port `cmd`, oldest first (R25, R26;
  notes/assumptions/12.md). -/
  cmds : List CmdWord
  /-- The model's own: how many further answers the collaborators give, `none` for every one (43_transferer.md R159;
  notes/assumptions/13.md). -/
  grants : Option Nat
  /-- The model's own: how many times free values were drawn (notes/assumptions/11.md). -/
  freeCtr : Nat
deriving DecidableEq, Repr

/-- The block "raises no exception, fault, trap or error status of any kind" (60_exceptions.md R180): there is no fault,
and no meaning can end in one. -/
inductive Fault where
deriving DecidableEq, Repr

/-- Why the model gives no next state. -/
inductive Refusal where
  /-- Raised by `exec` for an instruction with no meaning; no arm does. Safe. -/
  | notModelled (mnemonic : String)
  /-- Raised by `step` and by `construct` for a chip count outside `1..5461` (00_scope.md R5, D5, U5). Safe: a
  refusal proves nothing. -/
  | chipCount
deriving DecidableEq, Repr

/-- Construction reset for chip count `c` and `TMGRST_RESET = tmgrst` (10_state.md R31, 70_reset_and_hazards.md R200).
The registers R31 calls unspecified hold the values of notes/assumptions/4.md to 8.md (DESIGN CHOICE, unsafe). -/
def State.construct (c : Nat) (tmgrst : Bool) : State where
  fb := List.replicate (14 * c) 0
  fc := if tmgrst then 0x16 else 0x12
  xstate := .uninitialized
  mode := .hardwareBulk
  settleUs := 0
  maskEn := false
  spiHz := 0
  clkPin := 0
  dataPin := 0
  sb := List.replicate (28 * c) 0
  busy := false
  tp := 0
  tb := 0
  irqMask := false
  sclk := false
  sdata := false
  out := []
  chips := c
  wait := .wordReady
  cmds := []
  grants := none
  freeCtr := 0

/-- The block right after construction reset, with the chip count and `TMGRST_RESET` of Config
(notes/assumptions/1.md, 3.md). -/
def State.reset : State := State.construct Config.chipCount Config.tmgrstReset

end Sys2Proof.Machine
end

