-- ==== Sys2Proof/Machine/Flags.lean ====
section
/-! DEFINITION. Flags. The block has no condition codes and no error flags; the only status bit is `BUSY`
(10_state.md R22). -/

namespace Sys2Proof.Machine

/-- `BUSY <- 1`, at the start of a transfer (43_transferer.md R147). -/
def setBusy (s : State) : State := { s with busy := true }

/-- `BUSY <- 0`, when the transfer is complete (43_transferer.md R147). -/
def clearBusy (s : State) : State := { s with busy := false }

/-- `cmd_ready = not BUSY` (10_state.md R26). -/
def cmdReady (s : State) : Bool := !s.busy

/-- `cmd_valid`: the host offers a command word (10_state.md R26). -/
def cmdValid (s : State) : Bool := !s.cmds.isEmpty

end Sys2Proof.Machine
end

