-- ==== Sys2Proof/Machine/Operands.lean ====
section
/-! DEFINITION. Operand forms: the IndexMapper (40_index_mapper.md), the LED and chip indices, the boolean and brightness
operands (30_encoding.md R68), the function-control value and the control-word composer (41_command_word_builder.md
R100). Index arithmetic is on unbounded naturals (R96). -/

namespace Sys2Proof.Machine

/-- `NW = 14*C`, the words of the frame buffer (10_state.md R10). -/
abbrev nw (c : Nat) : Nat := 14 * c

/-- `NCH = 12*C`, the logical channels (00_scope.md R5). -/
abbrev nch (c : Nat) : Nat := 12 * c

/-- `NLED = 4*C`, the RGB LEDs (00_scope.md R5). -/
abbrev nled (c : Nat) : Nat := 4 * c

/-- `NB = 28*C`, the bytes of a frame (00_scope.md R5). -/
abbrev nb (c : Nat) : Nat := 28 * c

/-- The chip counts the spec admits, `1 <= C <= 5461` (00_scope.md R5). -/
def chipsOk (c : Nat) : Bool := 1 ≤ c && c ≤ 5461

/-- `MAP(idx)` for chip count `c` (40_index_mapper.md R90, R91): none is the sentinel NONE. -/
def mapChannel (c idx : Nat) : Option Nat :=
  if idx < nch c then some (14 * (idx / 12) + idx % 12) else none

/-- The inverse of `MAP` (40_index_mapper.md R94): the logical channel of a physical word offset, none for a
control-word slot or an offset outside the frame buffer. -/
def unmapOffset (c o : Nat) : Option Nat :=
  if o < nw c && o % 14 ≤ 11 then some (12 * (o / 14) + o % 14) else none

/-- The offset of an LED's red word, `MAP(3*led)` (42_channel_ops.md R122, 40_index_mapper.md R95): none for an LED
outside `0 .. NLED-1`. -/
def ledBase (c led : Nat) : Option Nat :=
  if led < nled c then some (14 * (led / 4) + 3 * (led % 4)) else none

/-- The offset of the low half of a chip's control word, `14*chipIdx + 12` (41_command_word_builder.md R101): none for a
chip outside `0 .. C-1`. -/
def ctlBase (c chipIdx : Nat) : Option Nat :=
  if chipIdx < c then some (14 * chipIdx + 12) else none

/-- The boolean operand of SETTMGRST: true iff the slot is not zero (30_encoding.md R68). -/
def truth (slot : Word) : Bool := slot != 0

/-- A brightness operand truncated to its seven bits, `slot & 0x7F` (30_encoding.md R62). -/
def brightness (slot : Word) : BitVec 7 := slot.extractLsb' 0 7

/-- `0x12 | (val ? 0x04 : 0)` (41_command_word_builder.md R103). -/
def fcOf (val : Bool) : BitVec 5 := 0x12 ||| (if val then 0x04 else 0x00)

/-- `CW(fc, bcr, bcg, bcb)`, the control word (41_command_word_builder.md R100, 30_encoding.md R60). -/
def composeCtl (fc : BitVec 5) (bcr bcg bcb : Word) : CtlWord :=
  ((0x25 : CtlWord) <<< 26) ||| (fc.setWidth 32 <<< 21) ||| ((brightness bcb).setWidth 32 <<< 14)
    ||| ((brightness bcg).setWidth 32 <<< 7) ||| (brightness bcr).setWidth 32

/-- `cw[15:0]`, the half stored at slot 12 (30_encoding.md R63). -/
def ctlLow (cw : CtlWord) : Word := cw.extractLsb' 0 16

/-- `cw[31:16]`, the half stored at slot 13 (30_encoding.md R63). -/
def ctlHigh (cw : CtlWord) : Word := cw.extractLsb' 16 16

/-- `cw[31:26]` (41_command_word_builder.md R104). -/
def ctlMagic (cw : CtlWord) : BitVec 6 := cw.extractLsb' 26 6

/-- `cw[25:21]` (41_command_word_builder.md R104). -/
def ctlFc (cw : CtlWord) : BitVec 5 := cw.extractLsb' 21 5

/-- `cw[20:14]` (41_command_word_builder.md R104). -/
def ctlBcb (cw : CtlWord) : BitVec 7 := cw.extractLsb' 14 7

/-- `cw[13:7]` (41_command_word_builder.md R104). -/
def ctlBcg (cw : CtlWord) : BitVec 7 := cw.extractLsb' 7 7

/-- `cw[6:0]` (41_command_word_builder.md R104). -/
def ctlBcr (cw : CtlWord) : BitVec 7 := cw.extractLsb' 0 7

/-- The brightness operand 127 of RESET and SETTMGRST (42_channel_ops.md R124, 41_command_word_builder.md R103). -/
abbrev fullBrightness : Word := 127

end Sys2Proof.Machine
end

