-- ==== Sys2Proof/Machine/Wire.lean ====
section
/-! DEFINITION. The frame as words, bytes and bits (43_transferer.md R149, 30_encoding.md R66), and the bit stream of a
trace (10_state.md R28). -/

namespace Sys2Proof.Machine

/-- The bits of a word, most significant first (20_memory.md R43). -/
def wordBits (w : Word) : List Bool := (List.range 16).map fun i => w.getLsbD (15 - i)

/-- The bits of a byte, most significant first (10_state.md R28). -/
def byteBits (b : Byte) : List Bool := (List.range 8).map fun i => b.getLsbD (7 - i)

/-- `w[15:8]` (20_memory.md R43). -/
def highByte (w : Word) : Byte := w.extractLsb' 8 8

/-- `w[7:0]` (20_memory.md R43). -/
def lowByte (w : Word) : Byte := w.extractLsb' 0 8

/-- `FRAME_WORDS(FB)`: last word first (43_transferer.md R149). -/
def frameWords (fb : List Word) : List Word := fb.reverse

/-- `FRAME_BYTES(FB)`: last word first, high byte then low byte (43_transferer.md R149). -/
def frameBytes (fb : List Word) : List Byte := (frameWords fb).flatMap fun w => [highByte w, lowByte w]

/-- `FRAME_BITS(FB)`: last word first, most significant bit first (43_transferer.md R149). -/
def frameBits (fb : List Word) : List Bool := (frameWords fb).flatMap wordBits

/-- The three events of a bit cell: data, rising clock, falling clock (43_transferer.md R154). -/
def cellEvents (b : Bool) : List Event := [.data b, .clk true, .clk false]

/-- The levels of `SCLK` and `SDATA` after an event, from those before it (10_state.md R27). -/
def levelsAfter (sclk sdata : Bool) : Event → Bool × Bool
  | .data b => (sclk, b)
  | .clk l => (l, sdata)
  | _ => (sclk, sdata)

/-- The bits an event contributes, given the levels before it (10_state.md R28): a word or a block its bits, a rising
clock edge the data level, every other event nothing. -/
def eventBits (sclk sdata : Bool) : Event → List Bool
  | .word w => wordBits w
  | .block bs => bs.flatMap byteBits
  | .clk l => if l && !sclk then [sdata] else []
  | _ => []

/-- `bits(E)` of an event list performed from the given levels of `SCLK` and `SDATA` (10_state.md R28). -/
def bitStream (sclk sdata : Bool) : List Event → List Bool
  | [] => []
  | e :: es => eventBits sclk sdata e ++ bitStream (levelsAfter sclk sdata e).1 (levelsAfter sclk sdata e).2 es

/-- `bits(OUT)` (10_state.md R28). Bits of pin events come only after a CFGBB, which drives both levels low, so the levels
a trace starts from play no part (notes/assumptions/24.md). -/
def traceBits (s : State) : List Bool := bitStream false false s.out

end Sys2Proof.Machine
end

