-- ==== Sys2Proof/Machine/Ops.lean ====
section
/-! DEFINITION. The operations the commands share: reads and writes of the frame buffer (20_memory.md), events
(10_state.md R27), output levels, the free values, the collaborators' answers and the command port (10_state.md R26).
The block takes no exception (60_exceptions.md R180), so there is no exception entry and no return among them. -/

namespace Sys2Proof.Machine

/-- The storage of a block with chip count `C` is exactly `14*C` words and `28*C` bytes (10_state.md R10, R21): the one
form the register arrays have. -/
def Memory.wf (s : State) : Bool := s.fb.length == nw s.chips && s.sb.length == nb s.chips

/-- `FB[o]` (00_scope.md R8). The spec reads no offset outside the frame buffer; there the model reads 0
(notes/assumptions/17.md). -/
def readWord (s : State) (o : Nat) : Word := s.fb.getD o 0

/-- The state with another frame buffer. -/
def setFb (fb : List Word) (s : State) : State := { s with fb := fb }

/-- `FB[o] <- v` (00_scope.md R8). -/
def writeWord (o : Nat) (v : Word) (s : State) : State := setFb (s.fb.set o v) s

/-- `for k in 0 .. n-1: f k`, in increasing order (00_scope.md R8). -/
def loop {α : Type} (f : Nat → α → α) : Nat → α → α
  | 0, a => a
  | n + 1, a => f n (loop f n a)

/-- An LED's three words from the offset of its red word (42_channel_ops.md R122). -/
def putLed (base : Nat) (r g b : Word) (fb : List Word) : List Word :=
  ((fb.set base r).set (base + 1) g).set (base + 2) b

/-- A control word from the offset of its low half (30_encoding.md R63, `MemWrite` of 00_scope.md R8). -/
def putCtl (base : Nat) (cw : CtlWord) (fb : List Word) : List Word :=
  (fb.set base (ctlLow cw)).set (base + 1) (ctlHigh cw)

/-- The four LEDs of chip `c` (42_channel_ops.md R123). -/
def putChipLeds (r g b : Word) (c : Nat) (fb : List Word) : List Word :=
  loop (fun k fb => putLed (14 * c + 3 * k) r g b fb) 4 fb

/-- The LEDs of the chips `0 .. n-1` (42_channel_ops.md R123). -/
def putAllLeds (r g b : Word) (n : Nat) (fb : List Word) : List Word :=
  loop (putChipLeds r g b) n fb

/-- The control words of the chips `0 .. n-1` (41_command_word_builder.md R102). -/
def putAllCtl (cw : CtlWord) (n : Nat) (fb : List Word) : List Word :=
  loop (fun c fb => putCtl (14 * c + 12) cw fb) n fb

/-- Chip `c` in the default device state: slots 0 to 11 zero, then its control word (42_channel_ops.md R124). -/
def putChipDefault (cw : CtlWord) (c : Nat) (fb : List Word) : List Word :=
  putCtl (14 * c + 12) cw (loop (fun k fb => fb.set (14 * c + k) 0) 12 fb)

/-- The chips `0 .. n-1` in the default device state (42_channel_ops.md R124). -/
def putAllDefault (cw : CtlWord) (n : Nat) (fb : List Word) : List Word :=
  loop (putChipDefault cw) n fb

/-- `MemRead(14*c + 12, 2)`, the stored control word of chip `c` (00_scope.md R8, 41_command_word_builder.md R104). -/
def readCtl (s : State) (c : Nat) : CtlWord := readWord s (14 * c + 13) ++ readWord s (14 * c + 12)

/-- Write logical channel `idx`, or nothing where `MAP(idx)` is NONE (42_channel_ops.md R120). The index is any natural,
as the exact index arithmetic of 40_index_mapper.md R96 has it. -/
def writeChannel (idx : Nat) (v : Word) (s : State) : State :=
  match mapChannel s.chips idx with
  | some o => writeWord o v s
  | none => s

/-- Read logical channel `idx`; 0 where `MAP(idx)` is NONE (42_channel_ops.md R121). -/
def readChannel (s : State) (idx : Nat) : Word :=
  match mapChannel s.chips idx with
  | some o => readWord s o
  | none => 0

/-- `emit(e)` (00_scope.md R8). -/
def emit (e : Event) (s : State) : State := { s with out := s.out ++ [e] }

/-- `respond(v)`: the response port, which is the event `Rsp(v)` (00_scope.md R8, 30_encoding.md R71). -/
def respond (v : Word) (s : State) : State := emit (.rsp v) s

/-- `emit(Data(b)); SDATA <- b` (43_transferer.md R154). -/
def driveData (b : Bool) (s : State) : State := { emit (.data b) s with sdata := b }

/-- `emit(Clk(l)); SCLK <- l` (43_transferer.md R154). -/
def driveClk (l : Bool) (s : State) : State := { emit (.clk l) s with sclk := l }

/-- The pins released by `Teardown(SoftwareBitbang)`: both levels are unspecified, two free values
(43_transferer.md R145, 10_state.md R24). -/
def releaseLevels (s : State) : State :=
  { s with
    sclk := Config.releasedLevel (2 * s.freeCtr)
    sdata := Config.releasedLevel (2 * s.freeCtr + 1)
    freeCtr := s.freeCtr + 1 }

/-- The content of `SB` after a block transfer: unspecified, a free value for every byte (10_state.md R21). -/
def staleStaging (s : State) : State :=
  { s with
    sb := (List.range (nb s.chips)).map (Config.staleByte s.freeCtr)
    freeCtr := s.freeCtr + 1 }

/-- One answer of a collaborator to a wait of 43_transferer.md R159: none where it does not come. -/
def takeGrant (s : State) : Option State :=
  match s.grants with
  | none => some s
  | some 0 => none
  | some (k + 1) => some { s with grants := some k }

/-- The transfer waits for an answer that has not come; `BUSY` stays as it is (43_transferer.md R159). -/
def suspend (w : Wait) (s : State) : State := { s with wait := w }

/-- Teardown (43_transferer.md R145): where something is configured, `Teardown(MODE)` with the old mode; after
`Teardown(SoftwareBitbang)` the levels are unspecified. -/
def teardown (s : State) : State :=
  match s.xstate with
  | .uninitialized => s
  | .ended => s
  | .configured =>
    match s.mode with
    | .hardwareBulk => emit (.teardown .hardwareBulk) s
    | .hardwareWordwise => emit (.teardown .hardwareWordwise) s
    | .softwareBitbang => releaseLevels (emit (.teardown .softwareBitbang) s)

/-- The fields every configuration command loads: `SETTLE_US`, `MASK_EN`, `MODE`, and `XSTATE <- Configured`
(43_transferer.md R142 to R144). -/
def setConfigured (m : Mode) (settleUs : Word) (maskEn : Bool) (s : State) : State :=
  { s with settleUs := settleUs, maskEn := maskEn, mode := m, xstate := .configured }

/-- A configuration command for the serial peripheral (43_transferer.md R142, R143). -/
def configurePeripheral (m : Mode) (hz : BitVec 32) (settleUs : Word) (maskEn : Bool) (s : State) : State :=
  emit (.perCfg hz) { setConfigured m settleUs maskEn (teardown s) with spiHz := hz }

/-- A configuration command for the pins: clock and data idle low (43_transferer.md R144). -/
def configurePins (clkPin dataPin settleUs : Word) (maskEn : Bool) (s : State) : State :=
  driveData false (driveClk false (emit (.pinCfg clkPin dataPin)
    { setConfigured .softwareBitbang settleUs maskEn (teardown s) with clkPin := clkPin, dataPin := dataPin }))

/-- The command handshake (10_state.md R26): the oldest offered word, taken when `cmd_valid` and `cmd_ready`. -/
def takeCommand (s : State) : Option (CmdWord × State) :=
  match s.cmds with
  | [] => none
  | c :: rest => if cmdReady s then some (c, { s with cmds := rest }) else none

/-- The host offers one more command word (10_state.md R25). An input from outside. -/
def offerCommand (c : CmdWord) (s : State) : State := { s with cmds := s.cmds ++ [c] }

/-- The collaborators give `k` more answers (60_exceptions.md R183). An input from outside. -/
def grantAnswers (k : Nat) (s : State) : State := { s with grants := s.grants.map (· + k) }

/-- Construction with a chip count given from outside: refused outside `1..5461` (00_scope.md R5). -/
def construct (c : Nat) (tmgrst : Bool) : Host.Outcome State Fault Refusal :=
  if chipsOk c then .next (State.construct c tmgrst) else .refused .chipCount

end Sys2Proof.Machine
end

