-- ==== Sys2Proof/Machine/ChannelOps.lean ====
section
/-! DEFINITION. The channel operations SETCH, GETCH, SETRGB, SETRGBALL, RESET (42_channel_ops.md). -/

namespace Sys2Proof.Machine

/-- SETCH (42_channel_ops.md R120). -/
def execSetch (idx val : Word) (s : State) : Host.Outcome State Fault Refusal :=
  .next (writeChannel idx.toNat val s)

/-- GETCH (42_channel_ops.md R121). -/
def execGetch (idx : Word) (s : State) : Host.Outcome State Fault Refusal :=
  .next (respond (readChannel s idx.toNat) s)

/-- SETRGB (42_channel_ops.md R122). -/
def execSetrgb (led r g b : Word) (s : State) : Host.Outcome State Fault Refusal :=
  match ledBase s.chips led.toNat with
  | some base => .next (setFb (putLed base r g b s.fb) s)
  | none => .next s

/-- SETRGBALL (42_channel_ops.md R123). -/
def execSetrgball (r g b : Word) (s : State) : Host.Outcome State Fault Refusal :=
  .next (setFb (putAllLeds r g b s.chips s.fb) s)

/-- RESET, the command: `FC` and the configuration are kept (42_channel_ops.md R124). -/
def execReset (s : State) : Host.Outcome State Fault Refusal :=
  .next (setFb (putAllDefault (composeCtl s.fc fullBrightness fullBrightness fullBrightness) s.chips s.fb) s)

end Sys2Proof.Machine
end

