-- ==== Sys2Proof/Machine/CommandWordBuilder.lean ====
section
/-! DEFINITION. The control-word commands SETBC, SETBCALL, SETTMGRST (41_command_word_builder.md). -/

namespace Sys2Proof.Machine

/-- SETBC (41_command_word_builder.md R101). -/
def execSetbc (chipIdx bcr bcg bcb : Word) (s : State) : Host.Outcome State Fault Refusal :=
  match ctlBase s.chips chipIdx.toNat with
  | some base => .next (setFb (putCtl base (composeCtl s.fc bcr bcg bcb) s.fb) s)
  | none => .next s

/-- SETBCALL (41_command_word_builder.md R102). -/
def execSetbcall (bcr bcg bcb : Word) (s : State) : Host.Outcome State Fault Refusal :=
  .next (setFb (putAllCtl (composeCtl s.fc bcr bcg bcb) s.chips s.fb) s)

/-- SETTMGRST: the new `FC`, and with it every control word at full brightness (41_command_word_builder.md R103). -/
def execSettmgrst (val : Word) (s : State) : Host.Outcome State Fault Refusal :=
  let fc := fcOf (truth val)
  .next { setFb (putAllCtl (composeCtl fc fullBrightness fullBrightness fullBrightness) s.chips s.fb) s with fc := fc }

end Sys2Proof.Machine
end

