-- ==== Sys2Proof/Machine/TimingGuard.lean ====
section
/-! DEFINITION. The TimingGuard: interrupt-masked critical section and settle delay (44_timing_guard.md R170 to R176). -/

namespace Sys2Proof.Machine

/-- `GUARD_BEGIN()` (44_timing_guard.md R171): the mask request rises iff `MASK_EN`. -/
def guardBegin (s : State) : State :=
  if s.maskEn then { emit .irqMask s with irqMask := true } else s

/-- `GUARD_END()` (44_timing_guard.md R171): the mask request falls iff `MASK_EN`. -/
def guardEnd (s : State) : State :=
  if s.maskEn then { emit .irqRestore s with irqMask := false } else s

/-- The events of `GUARD_BEGIN` (44_timing_guard.md R171). -/
def maskEvents (maskEn : Bool) : List Event := if maskEn then [.irqMask] else []

/-- The events of `GUARD_END` (44_timing_guard.md R171). -/
def restoreEvents (maskEn : Bool) : List Event := if maskEn then [.irqRestore] else []

/-- The wait for `delay_done`; `BUSY` clears only after it (44_timing_guard.md R173). -/
def awaitDelay (s : State) : State :=
  match takeGrant s with
  | some s => clearBusy s
  | none => suspend .delayDone s

/-- `SETTLE()` (44_timing_guard.md R173): the request `Delay(SETTLE_US)`, then the wait for its end
(notes/assumptions/14.md). -/
def settle (s : State) : State := awaitDelay (emit (.delay s.settleUs) s)

end Sys2Proof.Machine
end

