-- ==== Sys2Proof/Machine/Transfer.lean ====
section
/-! DEFINITION. The three transfer strategies (43_transferer.md R149 to R161). A transfer goes on as far as the
collaborators' answers carry it: with all of them it runs to completion (R158), without one it stays in that wait
(R159), and `resume` takes it up from there. -/

namespace Sys2Proof.Machine

/-- The fill of the staging buffer (43_transferer.md R151). -/
def fillStaging (s : State) : State := { s with sb := frameBytes s.fb }

/-- The wait for the block's completion, then the settle delay (43_transferer.md R150, R159). -/
def awaitBlock (s : State) : State :=
  match takeGrant s with
  | some s => settle s
  | none => suspend .blockDone s

/-- The block transfer: it waits for `per_block_ready`, sends `SB`, and leaves `SB` unspecified
(43_transferer.md R150). -/
def offerBlock (s : State) : State :=
  match takeGrant s with
  | some s => awaitBlock (staleStaging (emit (.block s.sb) s))
  | none => suspend .blockReady s

/-- `BULK(); SETTLE()`, never masked (43_transferer.md R147, R150, 44_timing_guard.md R170). DESIGN CHOICE, unsafe: `tp`
and `tb`, which R150 does not use, keep their old values (10_state.md R23, notes/assumptions/25.md). -/
def bulkTransfer (s : State) : State := offerBlock (fillStaging s)

/-- `for tp in n-1 downto 0: emit(Word(FB[tp]))`, each word waiting for `per_word_ready` (43_transferer.md R152): the
state reached, and whether every word was sent. DESIGN CHOICE, unsafe: `tb`, which R152 does not use, keeps its old
value (10_state.md R23, notes/assumptions/25.md). -/
def sendWords : Nat → State → State × Bool
  | 0, s => (s, true)
  | n + 1, s =>
    match takeGrant { s with tp := BitVec.ofNat 17 n } with
    | some s' => sendWords n (emit (.word (readWord s' n)) s')
    | none => (suspend .wordReady { s with tp := BitVec.ofNat 17 n }, false)

/-- The words from offset `n-1` down, then `GUARD_END(); SETTLE()` (43_transferer.md R147, R152). -/
def wordTransfer (n : Nat) (s : State) : State :=
  match sendWords n s with
  | (s', true) => settle (guardEnd s')
  | (s', false) => s'

/-- `BITCELL(b)`: data first, then the clock pulse (43_transferer.md R154). -/
def bitCell (b : Bool) (s : State) : State := driveClk false (driveClk true (driveData b s))

/-- `for tb in n-1 downto 0: BITCELL(w[tb])` (43_transferer.md R153). -/
def sendBits (w : Word) : Nat → State → State
  | 0, s => s
  | n + 1, s => sendBits w n (bitCell (w.getLsbD n) { s with tb := BitVec.ofNat 4 n })

/-- `for tp in n-1 downto 0`, the sixteen bit cells of each word (43_transferer.md R153). Bit cells wait for nothing
(R159). -/
def bitbangWords : Nat → State → State
  | 0, s => s
  | n + 1, s => bitbangWords n (sendBits (readWord s n) 16 { s with tp := BitVec.ofNat 17 n })

/-- The transfer of WRITE with the strategy of `MODE` (43_transferer.md R147). -/
def transfer (s : State) : State :=
  match s.mode with
  | .hardwareBulk => bulkTransfer (setBusy s)
  | .hardwareWordwise => wordTransfer (nw s.chips) (guardBegin (setBusy s))
  | .softwareBitbang => settle (guardEnd (bitbangWords (nw s.chips) (guardBegin (setBusy s))))

/-- A suspended transfer goes on from its wait (43_transferer.md R159): the word, block or completion it waited for is
waited for again. Without an answer nothing changes. -/
def resume (s : State) : State :=
  match s.wait with
  | .wordReady => wordTransfer (s.tp.toNat + 1) s
  | .blockReady => offerBlock s
  | .blockDone => awaitBlock s
  | .delayDone => awaitDelay s

end Sys2Proof.Machine
end

