-- ==== Sys2Proof/Machine/Transferer.lean ====
section
/-! DEFINITION. The Transferer's commands CFGBULK, CFGWORD, CFGBB, END, WRITE (43_transferer.md). -/

namespace Sys2Proof.Machine

/-- CFGBULK (43_transferer.md R142). -/
def execCfgbulk (hz : BitVec 32) (settleUs : Word) (maskEn : Bool) (s : State) : Host.Outcome State Fault Refusal :=
  .next (configurePeripheral .hardwareBulk hz settleUs maskEn s)

/-- CFGWORD (43_transferer.md R143). -/
def execCfgword (hz : BitVec 32) (settleUs : Word) (maskEn : Bool) (s : State) : Host.Outcome State Fault Refusal :=
  .next (configurePeripheral .hardwareWordwise hz settleUs maskEn s)

/-- CFGBB (43_transferer.md R144). -/
def execCfgbb (clkPin dataPin settleUs : Word) (maskEn : Bool) (s : State) : Host.Outcome State Fault Refusal :=
  .next (configurePins clkPin dataPin settleUs maskEn s)

/-- END: teardown and `Ended` from `Configured`, nothing elsewhere (43_transferer.md R146). -/
def execEndcfg (s : State) : Host.Outcome State Fault Refusal :=
  match s.xstate with
  | .configured => .next { teardown s with xstate := .ended }
  | .uninitialized => .next s
  | .ended => .next s

/-- WRITE: a transfer in `Configured`, a silent no-op elsewhere (43_transferer.md R147, R148). -/
def execWrite (s : State) : Host.Outcome State Fault Refusal :=
  match s.xstate with
  | .configured => .next (transfer s)
  | .uninitialized => .next s
  | .ended => .next s

end Sys2Proof.Machine
end

