-- ==== Sys2Proof/Machine/Dispatch.lean ====
section
/-! DEFINITION. One arm per command (30_encoding.md R69). -/

namespace Sys2Proof.Machine

/-- The meaning of a command. -/
def exec (i : Instr) (s : State) : Host.Outcome State Fault Refusal :=
  match i with
  | .setch idx val => Sys2Proof.Machine.execSetch idx val s
  | .getch idx => Sys2Proof.Machine.execGetch idx s
  | .setrgb led r g b => Sys2Proof.Machine.execSetrgb led r g b s
  | .setrgball r g b => Sys2Proof.Machine.execSetrgball r g b s
  | .setbc chipIdx bcr bcg bcb => Sys2Proof.Machine.execSetbc chipIdx bcr bcg bcb s
  | .setbcall bcr bcg bcb => Sys2Proof.Machine.execSetbcall bcr bcg bcb s
  | .settmgrst val => Sys2Proof.Machine.execSettmgrst val s
  | .reset => Sys2Proof.Machine.execReset s
  | .cfgbulk hz settleUs maskEn => Sys2Proof.Machine.execCfgbulk hz settleUs maskEn s
  | .cfgword hz settleUs maskEn => Sys2Proof.Machine.execCfgword hz settleUs maskEn s
  | .cfgbb clkPin dataPin settleUs maskEn => Sys2Proof.Machine.execCfgbb clkPin dataPin settleUs maskEn s
  | .endcfg => Sys2Proof.Machine.execEndcfg s
  | .write => Sys2Proof.Machine.execWrite s

end Sys2Proof.Machine
end

