-- ==== Sys2Proof/Machine/Step.lean ====
section
/-! DEFINITION. One step of the block (10_state.md R26): a suspended transfer goes on; otherwise the oldest offered
command is taken and executed; with none offered the block waits. -/

namespace Sys2Proof.Machine

/-- One step. A chip count outside `1..5461` is refused (00_scope.md R5); a reserved opcode is taken and does nothing
(30_encoding.md R70). -/
def step (s : State) : Host.Outcome State Fault Refusal :=
  if chipsOk s.chips then
    if s.busy then .next (resume s)
    else
      match takeCommand s with
      | none => .next s
      | some (c, s') =>
        match decode c with
        | .instr i => exec i s'
        | .reserved _ => .next s'
  else .refused .chipCount

/-- `s` with the word offered ahead of every other, and the port ready to take it (notes/assumptions/12.md, 16.md). -/
def State.withFetchWord (s : State) (nbits w : Nat) : State :=
  { s with cmds := tableWord nbits w :: s.cmds, busy := false }

end Sys2Proof.Machine
end

