-- ==== Sys2Proof/Safety.lean ====
section
/-! DEFINITION. What counts as a safe state, and the predicates statements use: the invariants of 10_state.md R30, the
conditions the block ignores (60_exceptions.md R181, R182), the hang (43_transferer.md R159), the required settle
delay (44_timing_guard.md R174). None of it changes a transition. -/

namespace Sys2Proof.Machine.Safety

/-- `FC` is `0x12` or `0x16` (10_state.md R14, R30 (a)). -/
abbrev FcLegal (s : State) : Prop := s.fc = 0x12 ∨ s.fc = 0x16

/-- Every chip's control word is zero or carries the magic and the current `FC` (10_state.md R30 (b)). -/
abbrev CtlLegal (s : State) : Prop :=
  ∀ c < s.chips, readCtl s c = 0 ∨ (ctlMagic (readCtl s c) = 0x25 ∧ ctlFc (readCtl s c) = s.fc)

/-- The mask request is down whenever `BUSY = 0` (10_state.md R30 (e), 44_timing_guard.md R175). -/
abbrev IdleUnmasked (s : State) : Prop := s.busy = false → s.irqMask = false

/-- A suspended transfer is one of the configured strategy; only a word-wise transfer can stand inside its critical
section (44_timing_guard.md R170, R171, R175). -/
abbrev WaitLegal (s : State) : Prop :=
  s.busy = true →
    s.xstate = .configured ∧
    (s.wait = .wordReady → s.mode = .hardwareWordwise ∧ s.tp.toNat < nw s.chips ∧ s.irqMask = s.maskEn) ∧
    (s.wait = .blockReady → s.mode = .hardwareBulk ∧ s.irqMask = false) ∧
    (s.wait = .blockDone → s.mode = .hardwareBulk ∧ s.irqMask = false) ∧
    (s.wait = .delayDone → s.irqMask = false)

/-- Every event of one WRITE in `Configured`, in order, by the strategy of `MODE` (43_transferer.md R147, R150, R152,
R153, 44_timing_guard.md R171, R173). -/
def transferEvents (s : State) : List Event :=
  match s.mode with
  | .hardwareBulk => [.block (frameBytes s.fb), .delay s.settleUs]
  | .hardwareWordwise =>
    maskEvents s.maskEn ++ (frameWords s.fb).map .word ++ restoreEvents s.maskEn ++ [.delay s.settleUs]
  | .softwareBitbang =>
    maskEvents s.maskEn ++ (frameBits s.fb).flatMap cellEvents ++ restoreEvents s.maskEn ++ [.delay s.settleUs]

/-- Those of them that a suspended transfer has emitted: the mask and the words above offset `tp` while it waits for
`per_word_ready`, none while it waits for `per_block_ready`, the block while it waits for its completion, all of them
while it waits for `delay_done` (43_transferer.md R159). On which side of its wait an event stands is the model's
choice (notes/assumptions/14.md). -/
def sentEvents (s : State) : List Event :=
  match s.wait with
  | .wordReady => maskEvents s.maskEn ++ ((frameWords s.fb).take (nw s.chips - 1 - s.tp.toNat)).map .word
  | .blockReady => []
  | .blockDone => [.block (frameBytes s.fb)]
  | .delayDone => transferEvents s

/-- A suspended transfer has emitted a beginning of its event list and holds the frame it is to send: the staging buffer
is filled from `FB` before the block is offered (43_transferer.md R151, R158, R159). -/
abbrev SentSoFar (s : State) : Prop :=
  s.busy = true → sentEvents s <:+ s.out ∧ (s.wait = .blockReady → s.sb = frameBytes s.fb)

/-- The clock idles low while bit-bang is configured (43_transferer.md R144, R154). -/
abbrev ClockIdlesLow (s : State) : Prop := s.xstate = .configured → s.mode = .softwareBitbang → s.sclk = false

/-- The invariant of the block (10_state.md R30, with the chip count of 00_scope.md R5). -/
abbrev Inv (s : State) : Prop :=
  chipsOk s.chips = true ∧ Memory.wf s = true ∧ FcLegal s ∧ CtlLegal s ∧ IdleUnmasked s ∧ WaitLegal s ∧ ClockIdlesLow s ∧
    SentSoFar s

/-- The block waits for an answer that no collaborator gives (43_transferer.md R159). -/
abbrev Hung (s : State) : Prop := s.busy = true ∧ s.grants = some 0

/-- The commands that do nothing in a state, by the table of 60_exceptions.md R181 (R182 allows the predicate): an
out-of-range write, WRITE and END outside `Configured`. -/
def ignored (s : State) : Instr → Bool
  | .setch idx _ => nch s.chips ≤ idx.toNat
  | .getch _ => false
  | .setrgb led _ _ _ => nled s.chips ≤ led.toNat
  | .setrgball _ _ _ => false
  | .setbc chipIdx _ _ _ => s.chips ≤ chipIdx.toNat
  | .setbcall _ _ _ => false
  | .settmgrst _ => false
  | .reset => false
  | .cfgbulk _ _ _ => false
  | .cfgword _ _ _ => false
  | .cfgbb _ _ _ _ => false
  | .endcfg => s.xstate != .configured
  | .write => s.xstate != .configured

/-- A brightness operand above 127, silently truncated (60_exceptions.md R181, R182). -/
def truncated : Instr → Bool
  | .setch _ _ => false
  | .getch _ => false
  | .setrgb _ _ _ _ => false
  | .setrgball _ _ _ => false
  | .setbc _ bcr bcg bcb => 127 < bcr.toNat || 127 < bcg.toNat || 127 < bcb.toNat
  | .setbcall bcr bcg bcb => 127 < bcr.toNat || 127 < bcg.toNat || 127 < bcb.toNat
  | .settmgrst _ => false
  | .reset => false
  | .cfgbulk _ _ _ => false
  | .cfgword _ _ _ => false
  | .cfgbb _ _ _ _ => false
  | .endcfg => false
  | .write => false

/-- The grayscale commands that write (20_memory.md R41). -/
def setsGrayscale : Instr → Bool
  | .setch _ _ => true
  | .getch _ => false
  | .setrgb _ _ _ _ => true
  | .setrgball _ _ _ => true
  | .setbc _ _ _ _ => false
  | .setbcall _ _ _ => false
  | .settmgrst _ => false
  | .reset => false
  | .cfgbulk _ _ _ => false
  | .cfgword _ _ _ => false
  | .cfgbb _ _ _ _ => false
  | .endcfg => false
  | .write => false

/-- The control-word commands (20_memory.md R41). -/
def setsControl : Instr → Bool
  | .setch _ _ => false
  | .getch _ => false
  | .setrgb _ _ _ _ => false
  | .setrgball _ _ _ => false
  | .setbc _ _ _ _ => true
  | .setbcall _ _ _ => true
  | .settmgrst _ => true
  | .reset => false
  | .cfgbulk _ _ _ => false
  | .cfgword _ _ _ => false
  | .cfgbb _ _ _ _ => false
  | .endcfg => false
  | .write => false

/-- The commands of the Transferer (43_transferer.md); the others are the frame-buffer commands (R141). -/
def ofTransferer : Instr → Bool
  | .setch _ _ => false
  | .getch _ => false
  | .setrgb _ _ _ _ => false
  | .setrgball _ _ _ => false
  | .setbc _ _ _ _ => false
  | .setbcall _ _ _ => false
  | .settmgrst _ => false
  | .reset => false
  | .cfgbulk _ _ _ => true
  | .cfgword _ _ _ => true
  | .cfgbb _ _ _ _ => true
  | .endcfg => true
  | .write => true

/-- A list of commands, one after another, stopping at the first that gives no next state (20_memory.md R51). -/
def execAll : List Instr → State → Host.Outcome State Fault Refusal
  | [], s => .next s
  | i :: is, s =>
    match exec i s with
    | .next t => execAll is t
    | .fault r => .fault r
    | .refused r => .refused r

/-- The settle delay meets the chips' minimum, eight clock periods plus about 1.34 microseconds, at a transfer clock of
`hz` hertz (44_timing_guard.md R174, both sides times `100 * hz`). An obligation on the host: the block checks nothing.
UNVERIFIED literal, notes/assumptions/23.md. -/
def settleSufficient (hz us : Nat) : Bool := 0 < hz && 800000000 + 134 * hz ≤ 100 * us * hz

end Sys2Proof.Machine.Safety
end

