-- ==== Sys2Proof/Certificates/Slice0/Obligations.lean ====
section
/-! DEFINITION. The statements about the block, one per rule or group of rules of spec/. Every statement about a state is
about every state, so about every chip count, every `FC` and every value of the model's own fields. -/

open Sys2Proof Sys2Proof.Machine Sys2Proof.Machine.Safety

/-! ### Encoding (30_encoding.md) -/

/-- Decoding the word of a command gives the command, with every operand (R67 to R69, R72). -/
def Obligations.DecodeOfEncodeIsIdentity : Prop :=
  ∀ i : Instr, decode (encode i) = .instr i

/-- An assembled word (a defined opcode, zero in every ignored bit) is the word of the command it decodes to, and every
encoded command is such a word (R69, R72). -/
def Obligations.AssembledWordIsItsEncoding : Prop :=
  (∀ c : CmdWord, wellFormedWord c = true → ∃ i, decode c = .instr i ∧ encode i = c) ∧
  (∀ i : Instr, wellFormedWord (encode i) = true ∧ opField (encode i) = i.opcode)

/-- Re-encoding what a word decodes to clears exactly the bits its opcode ignores, so ignored bits have no effect
(R68: a slot a command does not use is ignored). -/
def Obligations.IgnoredBitsHaveNoEffect : Prop :=
  (∀ (c : CmdWord) (i : Instr), decode c = .instr i → encode i = c &&& usedBits (opField c)) ∧
  (∀ c d : CmdWord, opField c = opField d → c &&& usedBits (opField c) = d &&& usedBits (opField d) → decode c = decode d)

/-- The command word's five fields, by value (R67). -/
def Obligations.CommandWordFields : Prop :=
  ∀ c : CmdWord,
    c.toNat = (opField c).toNat * 2 ^ 64 + (slotW c).toNat * 2 ^ 48 + (slotX c).toNat * 2 ^ 32
      + (slotY c).toNat * 2 ^ 16 + (slotZ c).toNat

/-- Words written out from the encodings of R69 decode to their commands. -/
def Obligations.SampleWordsDecode : Prop :=
  decode 0x010017123400000000 = .instr (.setch 23 0x1234) ∧
  decode 0x050000000A0014001E = .instr (.setbc 0 10 20 30) ∧
  decode 0x100098968000030000 = .instr (.cfgbulk 10000000 3 false) ∧
  decode 0x12000D000B00030001 = .instr (.cfgbb 13 11 3 true) ∧
  decode 0x140000000000000000 = .instr .write

/-- The reserved opcodes are `0x00`, `0x09 .. 0x0F`, `0x15 .. 0xFF`; a word with one is taken and does nothing (R70). -/
def Obligations.ReservedOpcodesDoNothing : Prop :=
  (∀ c : CmdWord, decode c = .reserved (opField c) ↔
    (opField c).toNat = 0x00 ∨ (0x09 ≤ (opField c).toNat ∧ (opField c).toNat ≤ 0x0F) ∨ 0x15 ≤ (opField c).toNat) ∧
  (∀ (s : State) (c : CmdWord) (rest : List CmdWord), chipsOk s.chips = true → s.busy = false → s.cmds = c :: rest →
    ((opField c).toNat = 0x00 ∨ (0x09 ≤ (opField c).toNat ∧ (opField c).toNat ≤ 0x0F) ∨ 0x15 ≤ (opField c).toNat) →
    step s = .next { s with cmds := rest })

/-! ### The step (10_state.md R26, 00_scope.md R7) -/

/-- The oldest offered word, where it decodes to a command, is what the step executes, after taking it from the port. -/
def Obligations.StepRunsTheDecodedCommand : Prop :=
  ∀ (s : State) (c : CmdWord) (rest : List CmdWord) (i : Instr),
    chipsOk s.chips = true → s.busy = false → s.cmds = c :: rest → decode c = .instr i → i.wellFormed = true →
    step s = exec i { s with cmds := rest }

/-- The command handshake (R26): `cmd_ready` is `not BUSY`; an offered command is taken when the block is ready, in
order; while `BUSY = 1` it waits, neither dropped nor executed early; with none offered nothing happens. -/
def Obligations.CommandHandshake : Prop :=
  ∀ s : State, chipsOk s.chips = true →
    (cmdReady s = !s.busy) ∧
    (∀ c rest, s.busy = false → s.cmds = c :: rest → ∃ t, step s = .next t ∧ t.cmds = rest) ∧
    (s.busy = false → s.cmds = [] → step s = .next s) ∧
    (s.busy = true → ∃ t, step s = .next t ∧ t.cmds = s.cmds ∧
      t = { s with
        sb := t.sb, busy := t.busy, tp := t.tp, tb := t.tb, irqMask := t.irqMask, sclk := t.sclk, sdata := t.sdata,
        out := t.out, wait := t.wait, grants := t.grants, freeCtr := t.freeCtr })

/-- Every command, with every operand, in every state, has a next state: no fault and no refusal (60_exceptions.md R180);
so has every step of a block with an admitted chip count. -/
def Obligations.EveryCommandHasANextState : Prop :=
  (∀ (i : Instr) (s : State), ∃ t, exec i s = .next t) ∧
  (∀ s : State, chipsOk s.chips = true → ∃ t, step s = .next t) ∧
  (∀ s : State, chipsOk s.chips = false → step s = .refused .chipCount)

/-! ### IndexMapper (40_index_mapper.md) -/

/-- `MAP` is the formula on its domain and NONE outside it, and the check on the index is the check on the offset
(R90, R91). -/
def Obligations.MapIsTheFormulaOnItsDomain : Prop :=
  ∀ c idx : Nat,
    (idx < 12 * c → mapChannel c idx = some (14 * (idx / 12) + idx % 12)) ∧
    (12 * c ≤ idx → mapChannel c idx = none) ∧
    (idx < 12 * c ↔ 14 * (idx / 12) + idx % 12 < 14 * c)

/-- `MAP` is strictly increasing, in bounds, never a control-word slot, and onto the grayscale words (R92). -/
def Obligations.MapIsAnOrderedBijectionOntoGrayscale : Prop :=
  ∀ c : Nat,
    (∀ i j oi oj, mapChannel c i = some oi → mapChannel c j = some oj →
      oi < nw c ∧ (i < j → oi < oj) ∧ (oi = oj → i = j) ∧ oi % 14 = i % 12 ∧ oi % 14 ≤ 11 ∧
      oi = i + 2 * (i / 12) ∧ (j = i + 12 → oj = oi + 14)) ∧
    (∀ o, (∃ i, mapChannel c i = some o) ↔ o < nw c ∧ o % 14 ≤ 11)

/-- The inverse of `MAP` (R94): the channel of a grayscale offset maps back to it; a control-word slot belongs to no
channel. -/
def Obligations.MapInverse : Prop :=
  ∀ c o : Nat, o < nw c →
    (o % 14 ≤ 11 →
      unmapOffset c o = some (12 * (o / 14) + o % 14) ∧ mapChannel c (12 * (o / 14) + o % 14) = some o) ∧
    (11 < o % 14 → unmapOffset c o = none ∧ ∀ idx, mapChannel c idx ≠ some o)

/-- An LED's three channels are in range together or not at all, and lie side by side in one chip block (R95). -/
def Obligations.LedIsThreeChannelsOfOneChip : Prop :=
  ∀ c led k : Nat, k ≤ 2 →
    (led < 4 * c →
      ledBase c led = some (14 * (led / 4) + 3 * (led % 4)) ∧
      mapChannel c (3 * led + k) = some (14 * (led / 4) + 3 * (led % 4) + k) ∧
      (14 * (led / 4) + 3 * (led % 4) + k) / 14 = led / 4) ∧
    (4 * c ≤ led → ledBase c led = none ∧ mapChannel c (3 * led + k) = none)

/-! ### Channel operations (42_channel_ops.md) -/

/-- SETCH (R120): it writes the mapped word of an in-range channel and nothing else, anywhere. -/
def Obligations.SetchWritesTheMappedWord : Prop :=
  (∀ c : CmdWord, opField c = 0x01 → decode c = .instr (.setch (slotW c) (slotX c))) ∧
  ∀ (idx val : Word) (s : State), Memory.wf s = true →
    ∃ t, exec (.setch idx val) s = .next t ∧ t = { s with fb := t.fb } ∧ t.fb.length = s.fb.length ∧
      ∀ o, readWord t o =
        if idx.toNat < 12 * s.chips ∧ o = 14 * (idx.toNat / 12) + idx.toNat % 12 then val else readWord s o

/-- GETCH (R121): it responds the mapped word, or zero out of range, and changes nothing. -/
def Obligations.GetchRespondsTheMappedWord : Prop :=
  (∀ c : CmdWord, opField c = 0x02 → decode c = .instr (.getch (slotW c))) ∧
  ∀ (idx : Word) (s : State),
    exec (.getch idx) s = .next { s with out := s.out ++ [.rsp
      (if idx.toNat < 12 * s.chips then readWord s (14 * (idx.toNat / 12) + idx.toNat % 12) else 0)] }

/-- A GETCH after a SETCH of the same in-range channel responds the value; every other channel responds as before, and
out of range both do nothing (95_test_vectors.md S3, 20_memory.md R51 (a)). -/
def Obligations.GetchAfterSetch : Prop :=
  ∀ (idx val j : Word) (s : State), Memory.wf s = true →
    ∃ t, exec (.setch idx val) s = .next t ∧
      (idx.toNat < 12 * s.chips → exec (.getch idx) t = .next { t with out := s.out ++ [.rsp val] }) ∧
      (12 * s.chips ≤ idx.toNat → t = s ∧ exec (.getch idx) t = .next { t with out := s.out ++ [.rsp 0] }) ∧
      (j ≠ idx → exec (.getch j) t = .next { t with out := s.out ++ [.rsp (readChannel s j.toNat)] })

/-- SETRGB (R122): it writes the three words of an in-range LED and nothing else, anywhere. -/
def Obligations.SetrgbWritesOneLed : Prop :=
  (∀ c : CmdWord, opField c = 0x03 → decode c = .instr (.setrgb (slotW c) (slotX c) (slotY c) (slotZ c))) ∧
  ∀ (led r g b : Word) (s : State), Memory.wf s = true →
    ∃ t, exec (.setrgb led r g b) s = .next t ∧ t = { s with fb := t.fb } ∧ t.fb.length = s.fb.length ∧
      ∀ o, readWord t o =
        if led.toNat < 4 * s.chips ∧ o = 14 * (led.toNat / 4) + 3 * (led.toNat % 4) then r
        else if led.toNat < 4 * s.chips ∧ o = 14 * (led.toNat / 4) + 3 * (led.toNat % 4) + 1 then g
        else if led.toNat < 4 * s.chips ∧ o = 14 * (led.toNat / 4) + 3 * (led.toNat % 4) + 2 then b
        else readWord s o

/-- SETRGBALL (R123): every grayscale word of every chip, and nothing else. -/
def Obligations.SetrgballWritesEveryLed : Prop :=
  (∀ c : CmdWord, opField c = 0x04 → decode c = .instr (.setrgball (slotX c) (slotY c) (slotZ c))) ∧
  ∀ (r g b : Word) (s : State), Memory.wf s = true →
    ∃ t, exec (.setrgball r g b) s = .next t ∧ t = { s with fb := t.fb } ∧ t.fb.length = s.fb.length ∧
      (∀ c k, c < s.chips → k ≤ 3 →
        readWord t (14 * c + 3 * k) = r ∧ readWord t (14 * c + 3 * k + 1) = g ∧ readWord t (14 * c + 3 * k + 2) = b) ∧
      (∀ o, (14 * s.chips ≤ o ∨ 11 < o % 14) → readWord t o = readWord s o)

/-- RESET (R124): every grayscale word zero, every control word default with the current `FC`, nothing else. -/
def Obligations.ResetCommandGivesTheDefaultDeviceState : Prop :=
  (∀ c : CmdWord, opField c = 0x08 → decode c = .instr .reset) ∧
  ∀ s : State, Memory.wf s = true →
    ∃ t, exec .reset s = .next t ∧ t = { s with fb := t.fb } ∧ t.fb.length = s.fb.length ∧
      (∀ c k, c < s.chips → k ≤ 11 → readWord t (14 * c + k) = 0) ∧
      (∀ c, c < s.chips → readCtl t c = composeCtl s.fc 127 127 127 ∧ readWord t (14 * c + 12) = 0xFFFF ∧
        (s.fc = 0x12 → readWord t (14 * c + 13) = 0x965F) ∧ (s.fc = 0x16 → readWord t (14 * c + 13) = 0x96DF)) ∧
      (∀ o, 14 * s.chips ≤ o → readWord t o = readWord s o)

/-- Out-of-range indices are silently ignored: the three writes do nothing at all, GETCH responds zero
(20_memory.md R47). -/
def Obligations.OutOfRangeIsSilentlyIgnored : Prop :=
  ∀ s : State,
    (∀ idx val : Word, 12 * s.chips ≤ idx.toNat → exec (.setch idx val) s = .next s) ∧
    (∀ idx : Word, 12 * s.chips ≤ idx.toNat → exec (.getch idx) s = .next { s with out := s.out ++ [.rsp 0] }) ∧
    (∀ led r g b : Word, 4 * s.chips ≤ led.toNat → exec (.setrgb led r g b) s = .next s) ∧
    (∀ chipIdx bcr bcg bcb : Word, s.chips ≤ chipIdx.toNat → exec (.setbc chipIdx bcr bcg bcb) s = .next s)

/-- The four pseudo-operations are iterations of simpler commands, and SETTMGRST contains one (30_encoding.md R73). The
expansion of SETRGB has unbounded index arithmetic, so it is stated on the operation SETCH performs. -/
def Obligations.PseudoOperationsExpand : Prop :=
  ∀ s : State, chipsOk s.chips = true → Memory.wf s = true →
    (∀ (idx : Word) (v : Word), exec (.setch idx v) s = .next (writeChannel idx.toNat v s)) ∧
    (∀ led r g b : Word, exec (.setrgb led r g b) s =
      .next (writeChannel (3 * led.toNat + 2) b (writeChannel (3 * led.toNat + 1) g (writeChannel (3 * led.toNat) r s)))) ∧
    (∀ r g b : Word, exec (.setrgball r g b) s =
      execAll ((List.range (nled s.chips)).map fun led => .setrgb (BitVec.ofNat 16 led) r g b) s) ∧
    (∀ bcr bcg bcb : Word, exec (.setbcall bcr bcg bcb) s =
      execAll ((List.range s.chips).map fun c => .setbc (BitVec.ofNat 16 c) bcr bcg bcb) s) ∧
    (exec .reset s =
      execAll (((List.range (nch s.chips)).map fun i => .setch (BitVec.ofNat 16 i) 0) ++ [.setbcall 127 127 127]) s) ∧
    (∀ val : Word, exec (.settmgrst val) s =
      exec (.setbcall 127 127 127) { s with fc := 0x12 ||| (if val ≠ 0 then 0x04 else 0) })

/-- Every setter is idempotent (20_memory.md R48). -/
def Obligations.SettersAreIdempotent : Prop :=
  ∀ (i : Instr) (s : State), Memory.wf s = true →
    (setsGrayscale i = true ∨ setsControl i = true ∨ i = .reset) →
    ∃ t, exec i s = .next t ∧ exec i t = .next t

/-- Grayscale setters leave every control word, control-word commands every grayscale word, and the Transferer's
commands and GETCH the whole frame buffer (20_memory.md R41). -/
def Obligations.CommandsReachOnlyTheirWords : Prop :=
  ∀ (i : Instr) (s : State), Memory.wf s = true →
    ∃ t, exec i s = .next t ∧
      (setsGrayscale i = true → ∀ c, readCtl t c = readCtl s c) ∧
      (setsControl i = true → ∀ o, o % 14 ≤ 11 → readWord t o = readWord s o) ∧
      ((ofTransferer i = true ∨ ∃ idx, i = .getch idx) → t.fb = s.fb)

/-! ### CommandWordBuilder (41_command_word_builder.md) -/

/-- The control word is the sum of its five fields at their places, brightness modulo 128: no field spills into another
(R100, 30_encoding.md R60, 40_index_mapper.md R96 (e), (f)). -/
def Obligations.ControlWordIsTheSumOfItsFields : Prop :=
  ∀ (fc : BitVec 5) (bcr bcg bcb : Word),
    (composeCtl fc bcr bcg bcb).toNat =
      0x25 * 2 ^ 26 + fc.toNat * 2 ^ 21 + bcb.toNat % 128 * 2 ^ 14 + bcg.toNat % 128 * 2 ^ 7 + bcr.toNat % 128

/-- The stored halves in field terms (30_encoding.md R63): after an in-range SETBC, slot 12 and slot 13 of the chip. -/
def Obligations.StoredHalvesInFieldTerms : Prop :=
  ∀ (chipIdx bcr bcg bcb : Word) (s : State), Memory.wf s = true → chipIdx.toNat < s.chips →
    ∃ t, exec (.setbc chipIdx bcr bcg bcb) s = .next t ∧
      (readWord t (14 * chipIdx.toNat + 12)).toNat =
        bcb.toNat % 4 * 2 ^ 14 + bcg.toNat % 128 * 2 ^ 7 + bcr.toNat % 128 ∧
      (readWord t (14 * chipIdx.toNat + 13)).toNat = 0x25 * 2 ^ 10 + s.fc.toNat * 2 ^ 5 + bcb.toNat % 128 / 4

/-- SETBC (R101): it writes the two halves of an in-range chip's control word, with the current `FC`, and nothing else. -/
def Obligations.SetbcWritesOneControlWord : Prop :=
  (∀ c : CmdWord, opField c = 0x05 → decode c = .instr (.setbc (slotW c) (slotX c) (slotY c) (slotZ c))) ∧
  ∀ (chipIdx bcr bcg bcb : Word) (s : State), Memory.wf s = true →
    ∃ t, exec (.setbc chipIdx bcr bcg bcb) s = .next t ∧ t = { s with fb := t.fb } ∧ t.fb.length = s.fb.length ∧
      ∀ o, readWord t o =
        if chipIdx.toNat < s.chips ∧ o = 14 * chipIdx.toNat + 12 then (composeCtl s.fc bcr bcg bcb).extractLsb' 0 16
        else if chipIdx.toNat < s.chips ∧ o = 14 * chipIdx.toNat + 13 then (composeCtl s.fc bcr bcg bcb).extractLsb' 16 16
        else readWord s o

/-- SETBCALL (R102): every chip's control word, with the current `FC`, and nothing else. -/
def Obligations.SetbcallWritesEveryControlWord : Prop :=
  (∀ c : CmdWord, opField c = 0x06 → decode c = .instr (.setbcall (slotX c) (slotY c) (slotZ c))) ∧
  ∀ (bcr bcg bcb : Word) (s : State), Memory.wf s = true →
    ∃ t, exec (.setbcall bcr bcg bcb) s = .next t ∧ t = { s with fb := t.fb } ∧ t.fb.length = s.fb.length ∧
      (∀ c, c < s.chips →
        readWord t (14 * c + 12) = (composeCtl s.fc bcr bcg bcb).extractLsb' 0 16 ∧
        readWord t (14 * c + 13) = (composeCtl s.fc bcr bcg bcb).extractLsb' 16 16) ∧
      (∀ o, (14 * s.chips ≤ o ∨ o % 14 ≤ 11) → readWord t o = readWord s o)

/-- SETTMGRST (R103): the new `FC`, and with it every control word at full brightness, whatever it was; nothing else. -/
def Obligations.SettmgrstWritesFcAndEveryControlWord : Prop :=
  (∀ c : CmdWord, opField c = 0x07 → decode c = .instr (.settmgrst (slotW c))) ∧
  ∀ (val : Word) (s : State), Memory.wf s = true →
    ∃ t, exec (.settmgrst val) s = .next t ∧ t = { s with fb := t.fb, fc := t.fc } ∧ t.fb.length = s.fb.length ∧
      t.fc = (if val = 0 then 0x12 else 0x16) ∧
      (∀ c, c < s.chips →
        readWord t (14 * c + 12) = 0xFFFF ∧ readWord t (14 * c + 13) = (if val = 0 then 0x965F else 0x96DF)) ∧
      (∀ o, (14 * s.chips ≤ o ∨ o % 14 ≤ 11) → readWord t o = readWord s o)

/-- Decoding the control word an in-range SETBC stored gives the magic, the current `FC` and the three operands' low seven
bits (R104, 30_encoding.md R62). -/
def Obligations.StoredControlWordDecodes : Prop :=
  ∀ (chipIdx bcr bcg bcb : Word) (s : State), Memory.wf s = true → chipIdx.toNat < s.chips →
    ∃ t, exec (.setbc chipIdx bcr bcg bcb) s = .next t ∧
      ctlMagic (readCtl t chipIdx.toNat) = 0x25 ∧ ctlFc (readCtl t chipIdx.toNat) = s.fc ∧
      (ctlBcb (readCtl t chipIdx.toNat)).toNat = bcb.toNat % 128 ∧
      (ctlBcg (readCtl t chipIdx.toNat)).toNat = bcg.toNat % 128 ∧
      (ctlBcr (readCtl t chipIdx.toNat)).toNat = bcr.toNat % 128

/-- Brightness operands count modulo 128 only, in every command that has them (30_encoding.md R62). -/
def Obligations.BrightnessIsTruncatedToSevenBits : Prop :=
  ∀ (chipIdx bcr bcg bcb : Word) (s : State),
    exec (.setbc chipIdx bcr bcg bcb) s = exec (.setbc chipIdx (bcr &&& 0x7F) (bcg &&& 0x7F) (bcb &&& 0x7F)) s ∧
    exec (.setbcall bcr bcg bcb) s = exec (.setbcall (bcr &&& 0x7F) (bcg &&& 0x7F) (bcb &&& 0x7F)) s

/-- SETTMGRST destroys brightness (70_reset_and_hazards.md R206): a SETBC or SETBCALL before it has no effect that is
left after it. -/
def Obligations.SettmgrstDiscardsBrightness : Prop :=
  ∀ (i : Instr) (val : Word) (s : State), Memory.wf s = true →
    ((∃ c r g b, i = .setbc c r g b) ∨ ∃ r g b, i = .setbcall r g b) →
    ∃ t u, exec i s = .next t ∧ exec (.settmgrst val) t = .next u ∧ exec (.settmgrst val) s = .next u ∧
      ∀ c, c < s.chips →
        ctlBcr (readCtl u c) = 127 ∧ ctlBcg (readCtl u c) = 127 ∧ ctlBcb (readCtl u c) = 127 ∧ ctlFc (readCtl u c) = u.fc

/-! ### Transferer: configuration (43_transferer.md) -/

/-- CFGBULK (R142): teardown of a prior configuration, then `PerCfg`, the registers, and `Configured(HardwareBulk)`. The
output levels are open after a bit-bang teardown (R145). That they are kept otherwise is the model's choice, in states
in which the spec calls both levels unspecified (10_state.md R24): notes/assumptions/10.md, and 8.md for the levels
before the first CFGBB. -/
def Obligations.CfgbulkConfigures : Prop :=
  (∀ c : CmdWord, opField c = 0x10 → decode c = .instr (.cfgbulk (slotW c ++ slotX c) (slotY c) ((slotZ c).getLsbD 0))) ∧
  ∀ (hz : BitVec 32) (settleUs : Word) (maskEn : Bool) (s : State),
    ∃ t, exec (.cfgbulk hz settleUs maskEn) s = .next t ∧
      t = { s with
        spiHz := hz, settleUs := settleUs, maskEn := maskEn, mode := .hardwareBulk, xstate := .configured,
        out := s.out ++ (if s.xstate = .configured then [.teardown s.mode] else []) ++ [.perCfg hz],
        sclk := t.sclk, sdata := t.sdata, freeCtr := t.freeCtr } ∧
      (¬(s.xstate = .configured ∧ s.mode = .softwareBitbang) →
        t.sclk = s.sclk ∧ t.sdata = s.sdata ∧ t.freeCtr = s.freeCtr)

/-- CFGWORD (R143), as CFGBULK with `Configured(HardwareWordwise)`. The output levels are open after a bit-bang teardown
(R145); that they are kept otherwise is the model's choice, as for CFGBULK: notes/assumptions/10.md and 8.md. -/
def Obligations.CfgwordConfigures : Prop :=
  (∀ c : CmdWord, opField c = 0x11 → decode c = .instr (.cfgword (slotW c ++ slotX c) (slotY c) ((slotZ c).getLsbD 0))) ∧
  ∀ (hz : BitVec 32) (settleUs : Word) (maskEn : Bool) (s : State),
    ∃ t, exec (.cfgword hz settleUs maskEn) s = .next t ∧
      t = { s with
        spiHz := hz, settleUs := settleUs, maskEn := maskEn, mode := .hardwareWordwise, xstate := .configured,
        out := s.out ++ (if s.xstate = .configured then [.teardown s.mode] else []) ++ [.perCfg hz],
        sclk := t.sclk, sdata := t.sdata, freeCtr := t.freeCtr } ∧
      (¬(s.xstate = .configured ∧ s.mode = .softwareBitbang) →
        t.sclk = s.sclk ∧ t.sdata = s.sdata ∧ t.freeCtr = s.freeCtr)

/-- CFGBB (R144): teardown of a prior configuration, then `PinCfg`, `Clk(0)`, `Data(0)`, the registers, both levels low,
and `Configured(SoftwareBitbang)`. -/
def Obligations.CfgbbConfigures : Prop :=
  (∀ c : CmdWord, opField c = 0x12 → decode c = .instr (.cfgbb (slotW c) (slotX c) (slotY c) ((slotZ c).getLsbD 0))) ∧
  ∀ (clkPin dataPin settleUs : Word) (maskEn : Bool) (s : State),
    ∃ t, exec (.cfgbb clkPin dataPin settleUs maskEn) s = .next t ∧
      t = { s with
        clkPin := clkPin, dataPin := dataPin, settleUs := settleUs, maskEn := maskEn, mode := .softwareBitbang,
        xstate := .configured,
        out := s.out ++ (if s.xstate = .configured then [.teardown s.mode] else []) ++
          [.pinCfg clkPin dataPin, .clk false, .data false],
        sclk := false, sdata := false, freeCtr := t.freeCtr }

/-- END (R146): from `Configured`, teardown and `Ended`; elsewhere nothing. Two clauses are the model's choice: the output
levels are kept where no bit-bang configuration is torn down, although the spec calls them unspecified there
(10_state.md R24, R145; notes/assumptions/10.md, 8.md), and `MODE` is kept in `Ended`, although R140 gives it a value
only in `Configured` (notes/assumptions/21.md). -/
def Obligations.EndLeavesConfigured : Prop :=
  (∀ c : CmdWord, opField c = 0x13 → decode c = .instr .endcfg) ∧
  ∀ s : State,
    (s.xstate = .configured →
      ∃ t, exec .endcfg s = .next t ∧
        t = { s with
          xstate := .ended, out := s.out ++ [.teardown s.mode],
          sclk := t.sclk, sdata := t.sdata, freeCtr := t.freeCtr } ∧
        (s.mode ≠ .softwareBitbang → t.sclk = s.sclk ∧ t.sdata = s.sdata ∧ t.freeCtr = s.freeCtr)) ∧
    (s.xstate ≠ .configured → exec .endcfg s = .next s)

/-- The state machine (R141): where each command leads from each state. That END keeps `MODE` is the model's choice, read
from R146, since R140 gives `MODE` a value only in `Configured`: notes/assumptions/21.md. -/
def Obligations.TransfererStateMachine : Prop :=
  ∀ (i : Instr) (s : State), ∃ t, exec i s = .next t ∧
    ((∃ hz us m, i = .cfgbulk hz us m) → t.xstate = .configured ∧ t.mode = .hardwareBulk) ∧
    ((∃ hz us m, i = .cfgword hz us m) → t.xstate = .configured ∧ t.mode = .hardwareWordwise) ∧
    ((∃ c d us m, i = .cfgbb c d us m) → t.xstate = .configured ∧ t.mode = .softwareBitbang) ∧
    (i = .endcfg → t.mode = s.mode ∧ t.xstate = if s.xstate = .configured then .ended else s.xstate) ∧
    (ofTransferer i = false ∨ i = .write → t.xstate = s.xstate ∧ t.mode = s.mode)

/-- The frame-buffer commands work identically in all three states and modes (R141). -/
def Obligations.FrameBufferCommandsIgnoreTheTransferState : Prop :=
  ∀ (i : Instr) (s : State) (x : XState) (m : Mode), ofTransferer i = false →
    ∃ t, exec i s = .next t ∧ exec i { s with xstate := x, mode := m } = .next { t with xstate := x, mode := m }

/-! ### Transferer: the frame (43_transferer.md R149, 30_encoding.md R66) -/

/-- Bit `p` of the frame, in both forms of 30_encoding.md R66. -/
def Obligations.FrameBitPositions : Prop :=
  ∀ s : State, Memory.wf s = true →
    (frameBits s.fb).length = 224 * s.chips ∧
    ∀ p, p < 224 * s.chips →
      (frameBits s.fb)[p]? = some ((readWord s (14 * s.chips - 1 - p / 16)).getLsbD (15 - p % 16)) ∧
      (frameBits s.fb)[p]? = some
        (if p % 224 < 32 then (readCtl s (s.chips - 1 - p / 224)).getLsbD (31 - p % 224)
         else (readWord s (14 * (s.chips - 1 - p / 224) + (11 - (p % 224 - 32) / 16))).getLsbD
          (15 - (p % 224 - 32) % 16))

/-- The staging buffer holds the frame, high byte first, from the last word, while the block waits to be sent, whatever
was in it (20_memory.md R44, 43_transferer.md R151). That the waiting WRITE has put nothing into the trace, and that
`wait` names this wait, is the model's order of an event and its answer: notes/assumptions/14.md. That `tp` and `tb`
keep their old values is the model's choice (10_state.md R23): notes/assumptions/25.md. -/
def Obligations.StagingBufferHoldsTheFrame : Prop :=
  ∀ s : State, Memory.wf s = true → s.xstate = .configured → s.mode = .hardwareBulk → s.grants = some 0 →
    ∃ t, exec .write s = .next t ∧ t = { s with sb := t.sb, busy := true, wait := .blockReady } ∧
      t.sb = frameBytes s.fb ∧ t.sb.length = 28 * s.chips ∧
      ∀ k, k < 14 * s.chips →
        t.sb[2 * k]? = some ((readWord s (14 * s.chips - 1 - k)).extractLsb' 8 8) ∧
        t.sb[2 * k + 1]? = some ((readWord s (14 * s.chips - 1 - k)).extractLsb' 0 8)

/-! ### Transferer: WRITE (43_transferer.md, 44_timing_guard.md) -/

/-- WRITE outside `Configured` does nothing at all: no event, no delay (R148). -/
def Obligations.WriteOutsideConfiguredDoesNothing : Prop :=
  (∀ c : CmdWord, opField c = 0x14 → decode c = .instr .write) ∧
  ∀ s : State, s.xstate ≠ .configured → exec .write s = .next s

/-- A bulk WRITE with every answer given (R147, R150): one block of the frame's bytes and the settle delay, never masked;
`SB` is left with an open content of its size. That `tp` and `tb`, which a block transfer does not use, keep their old
values is the model's choice (10_state.md R23, R31): notes/assumptions/25.md. -/
def Obligations.BulkWriteSendsOneBlock : Prop :=
  ∀ s : State, Memory.wf s = true → s.xstate = .configured → s.mode = .hardwareBulk → s.grants = none →
    ∃ t, exec .write s = .next t ∧
      t = { s with
        out := s.out ++ [.block (frameBytes s.fb), .delay s.settleUs], busy := false, sb := t.sb, freeCtr := t.freeCtr } ∧
      t.sb.length = 28 * s.chips

/-- A word-wise WRITE with every answer given (R147, R152, 44_timing_guard.md R171): the words last first, inside the
critical section iff `MASK_EN`, then the settle delay. That `tp` is left at 0 is the model's choice, since the sequencer
is live only while `BUSY = 1` (10_state.md R23): notes/assumptions/7.md. That `tb`, which a word-wise transfer does not
use, keeps its old value is the model's choice too: notes/assumptions/25.md. -/
def Obligations.WordwiseWriteSendsEveryWord : Prop :=
  ∀ s : State, chipsOk s.chips = true → Memory.wf s = true → s.xstate = .configured → s.mode = .hardwareWordwise →
    s.grants = none →
    exec .write s = .next { s with
      out := s.out ++ (if s.maskEn then [.irqMask] else []) ++ (frameWords s.fb).map .word ++
        (if s.maskEn then [.irqRestore] else []) ++ [.delay s.settleUs],
      busy := false, tp := 0, irqMask := if s.maskEn then false else s.irqMask }

/-- A bit-banged WRITE with every answer given (R147, R153, R154, 44_timing_guard.md R171): one bit cell per bit of the
frame, inside the critical section iff `MASK_EN`, then the settle delay; the clock ends low, the data line at the last
bit. That `tp` and `tb` are left at 0 is the model's choice, since the sequencer is live only while `BUSY = 1`
(10_state.md R23): notes/assumptions/7.md. -/
def Obligations.BitbangWriteClocksEveryBit : Prop :=
  ∀ s : State, chipsOk s.chips = true → Memory.wf s = true → s.xstate = .configured → s.mode = .softwareBitbang →
    s.grants = none →
    exec .write s = .next { s with
      out := s.out ++ (if s.maskEn then [.irqMask] else []) ++
        (frameBits s.fb).flatMap (fun b => [.data b, .clk true, .clk false]) ++
        (if s.maskEn then [.irqRestore] else []) ++ [.delay s.settleUs],
      busy := false, tp := 0, tb := 0, sclk := false, sdata := (readWord s 0).getLsbD 0,
      irqMask := if s.maskEn then false else s.irqMask }

/-- The three strategies put the same bit stream on the wire: the frame of the frame buffer, whatever the mode and whatever
`MASK_EN` (R156). The clock is low where bit-bang is configured, as the invariant says. -/
def Obligations.StrategiesAgreeOnTheWire : Prop :=
  ∀ s : State, chipsOk s.chips = true → Memory.wf s = true → s.xstate = .configured → s.grants = none →
    ClockIdlesLow s →
    ∃ t events, exec .write s = .next t ∧ t.busy = false ∧ t.out = s.out ++ events ∧
      bitStream s.sclk s.sdata events = frameBits s.fb

/-- How many events a transfer emits (70_reset_and_hazards.md R214 (c)). -/
def Obligations.TransferEventCounts : Prop :=
  ∀ s : State, Memory.wf s = true → s.xstate = .configured → s.grants = none →
    ∃ t, exec .write s = .next t ∧
      t.out.length = s.out.length +
        match s.mode with
        | .hardwareBulk => 2
        | .hardwareWordwise => 14 * s.chips + 1 + if s.maskEn then 2 else 0
        | .softwareBitbang => 672 * s.chips + 1 + if s.maskEn then 2 else 0

/-- WRITE never changes `FB`, `FC`, `XSTATE`, `MODE`, a configuration register or an offered command, however many answers
come, and neither does a suspended transfer that goes on (R157, R147). -/
def Obligations.TransfersOnlyReadTheFrameBuffer : Prop :=
  ∀ s : State,
    (∃ t, exec .write s = .next t ∧
      t = { s with
        sb := t.sb, busy := t.busy, tp := t.tp, tb := t.tb, irqMask := t.irqMask, sclk := t.sclk, sdata := t.sdata,
        out := t.out, wait := t.wait, grants := t.grants, freeCtr := t.freeCtr }) ∧
    (chipsOk s.chips = true → s.busy = true → ∃ t, step s = .next t ∧
      t = { s with
        sb := t.sb, busy := t.busy, tp := t.tp, tb := t.tb, irqMask := t.irqMask, sclk := t.sclk, sdata := t.sdata,
        out := t.out, wait := t.wait, grants := t.grants, freeCtr := t.freeCtr })

/-- Every WRITE that transfers, if it completes, ends in exactly one `Delay(SETTLE_US)` (also of zero microseconds), in
every strategy and however many answers the collaborators have to give (44_timing_guard.md R173): the WRITE that
completes in its own step, and the suspended one that completes in a later step. What the suspended one had emitted
before that step is the model's order of events and answers: notes/assumptions/14.md. -/
def Obligations.CompletedTransferEndsInOneSettleDelay : Prop :=
  (∀ s t : State, s.xstate = .configured → exec .write s = .next t → t.busy = false →
    ∃ events, t.out = s.out ++ events ++ [.delay s.settleUs] ∧ ∀ us, Event.delay us ∉ events) ∧
  (∀ s t : State, Inv s → s.busy = true → step s = .next t → t.busy = false →
    ∃ before events, s.out = before ++ sentEvents s ∧ sentEvents s <+: events ++ [.delay s.settleUs] ∧
      t.out = before ++ events ++ [.delay s.settleUs] ∧ ∀ us, Event.delay us ∉ events)

/-- The interrupt mask (44_timing_guard.md R170, R171, R175): a WRITE that completes with `MASK_EN = 1` in a masked
strategy raises and restores it once, every frame event in between; bulk and unmasked transfers never touch it. The same
for a suspended WRITE that completes in a later step, which leaves the request down; what it had emitted before that
step is the model's order of events and answers: notes/assumptions/14.md. -/
def Obligations.MaskEnclosesTheFrame : Prop :=
  (∀ s t : State, s.xstate = .configured → exec .write s = .next t → t.busy = false →
    ∃ frame, (∀ e ∈ frame, e ≠ .irqMask ∧ e ≠ .irqRestore) ∧
      (s.maskEn = true ∧ s.mode ≠ .hardwareBulk →
        t.out = s.out ++ [.irqMask] ++ frame ++ [.irqRestore, .delay s.settleUs] ∧ t.irqMask = false) ∧
      (s.maskEn = false ∨ s.mode = .hardwareBulk →
        t.out = s.out ++ frame ++ [.delay s.settleUs] ∧ t.irqMask = s.irqMask)) ∧
  (∀ s t : State, Inv s → s.busy = true → step s = .next t → t.busy = false →
    t.irqMask = false ∧
    ∃ before frame, s.out = before ++ sentEvents s ∧ (∀ e ∈ frame, e ≠ .irqMask ∧ e ≠ .irqRestore) ∧
      (s.maskEn = true ∧ s.mode ≠ .hardwareBulk →
        t.out = before ++ [.irqMask] ++ frame ++ [.irqRestore, .delay s.settleUs]) ∧
      (s.maskEn = false ∨ s.mode = .hardwareBulk → t.out = before ++ frame ++ [.delay s.settleUs]))

/-- A word-wise transfer with `k` answers (R159, 44_timing_guard.md R171, R175). A peripheral that accepts fewer words than
the frame has leaves it in the wait for the next one: those words are sent, `BUSY` stays set, and so does the mask
request if `MASK_EN = 1`. With every word accepted and no end of the delay, every word is sent, the mask request is
down, and `BUSY` stays set in the wait for `delay_done`. With one answer more it completes. Which events stand in the
trace while it waits is the model's order of an event and its answer: notes/assumptions/14.md. That `tb` keeps its old
value is the model's choice (10_state.md R23): notes/assumptions/25.md. -/
def Obligations.WordwiseTransferWaitsForThePeripheral : Prop :=
  ∀ (s : State) (k : Nat), chipsOk s.chips = true → Memory.wf s = true → s.xstate = .configured →
    s.mode = .hardwareWordwise → s.grants = some k →
    ∃ t, exec .write s = .next t ∧
      t = { s with
        out := t.out, busy := t.busy, tp := t.tp, wait := t.wait, grants := t.grants, irqMask := t.irqMask } ∧
      (k < 14 * s.chips →
        t.out = s.out ++ (if s.maskEn then [.irqMask] else []) ++ ((frameWords s.fb).take k).map .word ∧
        t.busy = true ∧ t.wait = .wordReady ∧ t.tp.toNat = 14 * s.chips - 1 - k ∧ t.grants = some 0 ∧
        t.irqMask = (if s.maskEn then true else s.irqMask)) ∧
      (14 * s.chips ≤ k →
        t.out = s.out ++ (if s.maskEn then [.irqMask] else []) ++ (frameWords s.fb).map .word ++
          (if s.maskEn then [.irqRestore] else []) ++ [.delay s.settleUs] ∧
        t.irqMask = (if s.maskEn then false else s.irqMask)) ∧
      (k = 14 * s.chips → t.busy = true ∧ t.wait = .delayDone ∧ t.grants = some 0) ∧
      (14 * s.chips < k → t.busy = false ∧ t.grants = some (k - 14 * s.chips - 1))

/-- A bit-banged transfer waits for nothing but the end of the settle delay: without it every bit is out and the mask is
down (R159). That `Delay` stands in the trace before `delay_done` comes is the model's order of an event and its answer:
notes/assumptions/14.md. -/
def Obligations.BitbangTransferWaitsOnlyForTheDelay : Prop :=
  ∀ s : State, Memory.wf s = true → s.xstate = .configured → s.mode = .softwareBitbang → s.grants = some 0 →
    ∃ t, exec .write s = .next t ∧ t.busy = true ∧ t.wait = .delayDone ∧ t.grants = some 0 ∧ t.fb = s.fb ∧
      t.irqMask = (if s.maskEn then false else s.irqMask) ∧
      t.out = s.out ++ (if s.maskEn then [.irqMask] else []) ++ (frameBits s.fb).flatMap cellEvents ++
        (if s.maskEn then [.irqRestore] else []) ++ [.delay s.settleUs]

/-- A bulk transfer waits three times: for the peripheral to take the block, for its completion, for the settle delay
(R159); the mask request is never touched. The model's order of an event and its answer: notes/assumptions/14.md. -/
def Obligations.BulkTransferWaits : Prop :=
  ∀ (s : State) (k : Nat), s.xstate = .configured → s.mode = .hardwareBulk → s.grants = some k →
    ∃ t, exec .write s = .next t ∧ t.irqMask = s.irqMask ∧ t.fb = s.fb ∧
      (k = 0 → t.busy = true ∧ t.wait = .blockReady ∧ t.out = s.out) ∧
      (k = 1 → t.busy = true ∧ t.wait = .blockDone ∧ t.out = s.out ++ [.block (frameBytes s.fb)]) ∧
      (k = 2 → t.busy = true ∧ t.wait = .delayDone ∧
        t.out = s.out ++ [.block (frameBytes s.fb), .delay s.settleUs]) ∧
      (3 ≤ k → t.busy = false ∧ t.grants = some (k - 3) ∧
        t.out = s.out ++ [.block (frameBytes s.fb), .delay s.settleUs])

/-- A block that waits for an answer nobody gives waits for ever: any number of steps leaves it as it is, no command is
taken (R159). That no answer comes is the model's counter of answers at 0: notes/assumptions/13.md. -/
def Obligations.HungBlockStaysForEver : Prop :=
  ∀ (s : State) (n : Nat), chipsOk s.chips = true → Hung s → Host.Core.run Sys2Proof.core n s = .next s

/-- Waiting changes nothing but the time of the rest: a WRITE suspended after `k` answers, given `g` more (`none` for all
of them), ends where one WRITE with all those answers ends, but for the model's record of the last wait
(R158, R159). Its form is the model's: one counter for all answers (notes/assumptions/13.md) and a suspension that a
later step takes up (notes/assumptions/14.md). -/
def Obligations.SuspendedTransferGoesOnAsUninterrupted : Prop :=
  ∀ (s t : State) (k : Nat) (g : Option Nat), chipsOk s.chips = true → s.xstate = .configured → s.grants = some k →
    exec .write s = .next t → t.busy = true →
    ∃ u v, step { t with grants := g } = .next u ∧
      exec .write { s with grants := g.map fun j => k + j } = .next v ∧ { u with wait := v.wait } = v

/-- Only GETCH responds (30_encoding.md R71), and no command takes an event back from the trace. -/
def Obligations.OnlyGetchResponds : Prop :=
  ∀ (i : Instr) (s : State), ∃ t events, exec i s = .next t ∧ t.out = s.out ++ events ∧
    ((∃ v, Event.rsp v ∈ events) ↔ ∃ idx, i = .getch idx)

/-! ### Whole-machine rules (10_state.md R30, 70_reset_and_hazards.md) -/

/-- Every step keeps the invariant: the chip count and the storage's sizes, the legal `FC`, every control word zero or
with the magic and the current `FC`, no mask while idle, a suspended transfer of the configured strategy, the clock
low where bit-bang is configured, and of a suspended transfer a beginning of its event list in the trace, with the
staging buffer filled before the block is offered (R30, 43_transferer.md R151, R154, R158, 44_timing_guard.md R175). How
much of the list it has emitted in which wait is the model's order of events and answers: notes/assumptions/14.md. -/
def Obligations.EveryStepKeepsTheInvariant : Prop :=
  ∀ s t : State, Inv s → step s = .next t → Inv t

/-- The invariant holds right after construction, for every admitted chip count and both values of `TMGRST_RESET`. -/
def Obligations.ConstructionMeetsTheInvariant : Prop :=
  Inv State.reset ∧ ∀ (c : Nat) (tmgrst : Bool), chipsOk c = true → Inv (State.construct c tmgrst)

/-- The values construction gives where the spec states them (10_state.md R31, 70_reset_and_hazards.md R200); a chip count
outside `1..5461` is refused (00_scope.md R5). -/
def Obligations.ConstructionValues : Prop :=
  ∀ (c : Nat) (tmgrst : Bool),
    (1 ≤ c ∧ c ≤ 5461 → ∃ s, construct c tmgrst = .next s ∧ s.chips = c ∧ s.fb.length = 14 * c ∧ s.sb.length = 28 * c ∧
      (∀ o, readWord s o = 0) ∧ s.fc = 0x12 ||| (if tmgrst then 0x04 else 0x00) ∧ s.xstate = .uninitialized ∧
      s.busy = false ∧ s.irqMask = false ∧ s.out = []) ∧
    (c = 0 ∨ 5461 < c → construct c tmgrst = .refused .chipCount)

/-- Reset is the only way back to `Uninitialized` and the only way to make a control word zero again
(70_reset_and_hazards.md R201): a step neither leads to `Uninitialized` nor writes a control word without the magic. -/
def Obligations.OnlyResetLeadsBack : Prop :=
  ∀ s t : State, Memory.wf s = true → step s = .next t →
    (t.xstate = .uninitialized → s.xstate = .uninitialized) ∧
    (∀ c, c < s.chips → readCtl t c = readCtl s c ∨ ctlMagic (readCtl t c) = 0x25) ∧
    (∀ c, c < s.chips → readCtl s c ≠ 0 → readCtl t c ≠ 0)

/-- The chip count and with it every block boundary is constant, and the storage keeps its sizes
(70_reset_and_hazards.md R202, 10_state.md R30 (c)). -/
def Obligations.ChipCountIsConstant : Prop :=
  ∀ s t : State, step s = .next t →
    t.chips = s.chips ∧ t.fb.length = s.fb.length ∧ (Memory.wf s = true → Memory.wf t = true)

/-- `FC[4]`, `FC[3]`, `FC[1]`, `FC[0]` are hardwired: whatever `FC` held, only SETTMGRST writes it, and it writes `0x12` or
`0x16` by the truth of its operand (10_state.md R14). -/
def Obligations.OnlySettmgrstWritesFc : Prop :=
  ∀ (i : Instr) (s : State), ∃ t, exec i s = .next t ∧
    (∀ val, i = .settmgrst val → t.fc = if val = 0 then 0x12 else 0x16) ∧ ((∀ val, i ≠ .settmgrst val) → t.fc = s.fc)
end

