-- ==== Sys2Proof/Laws/Control.lean ====
section
/-! SUPPORT. The control word: its fields, its halves, its value (30_encoding.md R60 to R63). -/

namespace Sys2Proof.Machine

/-- The value of two bit strings joined. -/
theorem toNat_append_add {m n : Nat} (x : BitVec m) (y : BitVec n) : (x ++ y).toNat = x.toNat * 2 ^ n + y.toNat := by
  rw [BitVec.toNat_append, ← Nat.shiftLeft_add_eq_or_of_lt y.isLt, Nat.shiftLeft_eq]

/-- The composer's shifts and ORs place the five fields side by side: none spills into another. -/
theorem composeCtl_eq_append (fc : BitVec 5) (bcr bcg bcb : Word) :
    composeCtl fc bcr bcg bcb =
      ((((0x25 : BitVec 6) ++ fc) ++ brightness bcb) ++ brightness bcg) ++ brightness bcr := by
  unfold composeCtl
  generalize brightness bcr = r
  generalize brightness bcg = g
  generalize brightness bcb = b
  apply BitVec.eq_of_getLsbD_eq
  intro i hi
  simp only [BitVec.getLsbD_or, BitVec.getLsbD_shiftLeft, BitVec.getLsbD_append, BitVec.getLsbD_setWidth]
  interval_cases i <;> simp

/-- The control word as a number (40_index_mapper.md R96 (f): OR equals addition). -/
theorem composeCtl_toNat (fc : BitVec 5) (bcr bcg bcb : Word) :
    (composeCtl fc bcr bcg bcb).toNat =
      0x25 * 2 ^ 26 + fc.toNat * 2 ^ 21 + bcb.toNat % 128 * 2 ^ 14 + bcg.toNat % 128 * 2 ^ 7 + bcr.toNat % 128 := by
  rw [composeCtl_eq_append]
  simp only [toNat_append_add, brightness, BitVec.extractLsb'_toNat, Nat.shiftRight_zero]
  have hm : BitVec.toNat (0x25 : BitVec 6) = 37 := rfl
  rw [hm]
  omega

theorem extractLsb'_append_skip {m n : Nat} (x : BitVec m) (y : BitVec n) (start len : Nat) (h : n ≤ start) :
    (x ++ y).extractLsb' start len = x.extractLsb' (start - n) len := by
  apply BitVec.eq_of_getLsbD_eq
  intro i hi
  simp only [BitVec.getLsbD_extractLsb', BitVec.getLsbD_append]
  have : ¬(start + i < n) := by omega
  simp [hi, this, Nat.sub_add_comm h]

theorem extractLsb'_append_take {m n : Nat} (x : BitVec m) (y : BitVec n) : (x ++ y).extractLsb' 0 n = y := by
  apply BitVec.eq_of_getLsbD_eq
  intro i hi
  simp [BitVec.getLsbD_append, hi]

theorem ctlMagic_composeCtl (fc : BitVec 5) (bcr bcg bcb : Word) : ctlMagic (composeCtl fc bcr bcg bcb) = 0x25 := by
  rw [composeCtl_eq_append, ctlMagic]
  rw [extractLsb'_append_skip _ _ _ _ (by omega), extractLsb'_append_skip _ _ _ _ (by omega),
    extractLsb'_append_skip _ _ _ _ (by omega), extractLsb'_append_skip _ _ _ _ (by omega)]
  rfl

theorem ctlFc_composeCtl (fc : BitVec 5) (bcr bcg bcb : Word) : ctlFc (composeCtl fc bcr bcg bcb) = fc := by
  rw [composeCtl_eq_append, ctlFc, extractLsb'_append_skip _ _ _ _ (by omega),
    extractLsb'_append_skip _ _ _ _ (by omega), extractLsb'_append_skip _ _ _ _ (by omega)]
  exact extractLsb'_append_take _ _

theorem ctlBcb_composeCtl (fc : BitVec 5) (bcr bcg bcb : Word) :
    ctlBcb (composeCtl fc bcr bcg bcb) = brightness bcb := by
  rw [composeCtl_eq_append, ctlBcb, extractLsb'_append_skip _ _ _ _ (by omega),
    extractLsb'_append_skip _ _ _ _ (by omega)]
  exact extractLsb'_append_take _ _

theorem ctlBcg_composeCtl (fc : BitVec 5) (bcr bcg bcb : Word) :
    ctlBcg (composeCtl fc bcr bcg bcb) = brightness bcg := by
  rw [composeCtl_eq_append, ctlBcg, extractLsb'_append_skip _ _ _ _ (by omega)]
  exact extractLsb'_append_take _ _

theorem ctlBcr_composeCtl (fc : BitVec 5) (bcr bcg bcb : Word) :
    ctlBcr (composeCtl fc bcr bcg bcb) = brightness bcr := by
  rw [composeCtl_eq_append]
  exact extractLsb'_append_take _ _

/-- The two halves of a control word give it back (20_memory.md R42). -/
theorem ctlHigh_append_ctlLow (cw : CtlWord) : ctlHigh cw ++ ctlLow cw = cw := by
  apply BitVec.eq_of_getLsbD_eq
  intro i hi
  simp only [ctlHigh, ctlLow, BitVec.getLsbD_append, BitVec.getLsbD_extractLsb']
  split
  · rename_i h
    simp [h]
  · rename_i h
    have h₁ : i - 16 < 16 := by omega
    have h₂ : 16 + (i - 16) = i := by omega
    simp [h₁, h₂]

/-- A composed control word is never zero: it carries the magic. -/
theorem composeCtl_ne_zero (fc : BitVec 5) (bcr bcg bcb : Word) : composeCtl fc bcr bcg bcb ≠ 0 := by
  intro h
  have := composeCtl_toNat fc bcr bcg bcb
  rw [h] at this
  have h₀ : BitVec.toNat (0 : CtlWord) = 0 := rfl
  omega

/-- Only the low seven bits of a brightness operand count (30_encoding.md R62). -/
theorem brightness_and (b : Word) : brightness (b &&& 0x7F) = brightness b := by
  apply BitVec.eq_of_toNat_eq
  simp only [brightness, BitVec.extractLsb'_toNat, BitVec.toNat_and, Nat.shiftRight_zero]
  have : (0x7F : Word).toNat = 2 ^ 7 - 1 := rfl
  rw [this, Nat.and_two_pow_sub_one_eq_mod, Nat.mod_mod]

end Sys2Proof.Machine
end

