-- ==== Sys2Proof/Laws/Encoding.lean ====
section
/-! SUPPORT. The fields of a command word and of a word joined from fields (30_encoding.md R67). -/

namespace Sys2Proof

open Sys2Proof.Machine

theorem extractLsb'_whole {n : Nat} (x : BitVec n) : x.extractLsb' 0 n = x := by
  apply BitVec.eq_of_getLsbD_eq
  intro i hi
  simp [hi]

theorem opField_formatK (op : BitVec 8) (w x y z : Word) : opField (formatK op w x y z) = op := by
  unfold opField formatK
  rw [extractLsb'_append_skip _ _ _ _ (by omega), extractLsb'_append_skip _ _ _ _ (by omega),
    extractLsb'_append_skip _ _ _ _ (by omega), extractLsb'_append_skip _ _ _ _ (by omega)]
  exact extractLsb'_whole op

theorem slotW_formatK (op : BitVec 8) (w x y z : Word) : slotW (formatK op w x y z) = w := by
  unfold slotW formatK
  rw [extractLsb'_append_skip _ _ _ _ (by omega), extractLsb'_append_skip _ _ _ _ (by omega),
    extractLsb'_append_skip _ _ _ _ (by omega)]
  exact extractLsb'_append_take _ _

theorem slotX_formatK (op : BitVec 8) (w x y z : Word) : slotX (formatK op w x y z) = x := by
  unfold slotX formatK
  rw [extractLsb'_append_skip _ _ _ _ (by omega), extractLsb'_append_skip _ _ _ _ (by omega)]
  exact extractLsb'_append_take _ _

theorem slotY_formatK (op : BitVec 8) (w x y z : Word) : slotY (formatK op w x y z) = y := by
  unfold slotY formatK
  rw [extractLsb'_append_skip _ _ _ _ (by omega)]
  exact extractLsb'_append_take _ _

theorem slotZ_formatK (op : BitVec 8) (w x y z : Word) : slotZ (formatK op w x y z) = z :=
  extractLsb'_append_take _ _

theorem hertzHigh_append_hertzLow (hz : BitVec 32) : hertzHigh hz ++ hertzLow hz = hz :=
  ctlHigh_append_ctlLow hz

theorem hertzHigh_append (a b : Word) : hertzHigh (a ++ b) = a := by
  unfold hertzHigh
  rw [extractLsb'_append_skip _ _ _ _ (by omega)]
  exact extractLsb'_whole a

theorem hertzLow_append (a b : Word) : hertzLow (a ++ b) = b :=
  extractLsb'_append_take _ _

theorem maskSlot_bit (m : Bool) : (maskSlot m).getLsbD 0 = m := by cases m <;> rfl

/-- Masking two words of the format masks their fields. -/
theorem formatK_and (op op' : BitVec 8) (w x y z w' x' y' z' : Word) :
    formatK op w x y z &&& formatK op' w' x' y' z' =
      formatK (op &&& op') (w &&& w') (x &&& x') (y &&& y') (z &&& z') := by
  have h {m n : Nat} (a c : BitVec m) (b d : BitVec n) : (a ++ b) &&& (c ++ d) = (a &&& c) ++ (b &&& d) := by
    apply BitVec.eq_of_getLsbD_eq
    intro i hi
    simp only [BitVec.getLsbD_and, BitVec.getLsbD_append]
    split <;> rfl
  simp only [formatK, h]

/-- A word that is zero in the bits a mask leaves out is the word under the mask. -/
theorem and_eq_self_of_and_not {n : Nat} (c m : BitVec n) (h : c &&& ~~~m = 0) : c &&& m = c := by
  apply BitVec.eq_of_getLsbD_eq
  intro i hi
  have hb := congrArg (fun v => BitVec.getLsbD v i) h
  simp only [BitVec.getLsbD_and, BitVec.getLsbD_not, hi, decide_true, Bool.true_and] at hb ⊢
  cases hc : c.getLsbD i <;> cases hm : m.getLsbD i <;> simp_all

end Sys2Proof
end

