-- ==== Sys2Proof/Laws/State.lean ====
section
/-! SUPPORT. Every field after every named update of the state, one lemma each, true by rfl, so that no later proof
unfolds a record update. -/

namespace Sys2Proof.Machine

@[simp] theorem setFb_fb (fb : List Word) (s : State) : (setFb fb s).fb = fb := rfl
@[simp] theorem setFb_fc (fb : List Word) (s : State) : (setFb fb s).fc = s.fc := rfl
@[simp] theorem setFb_xstate (fb : List Word) (s : State) : (setFb fb s).xstate = s.xstate := rfl
@[simp] theorem setFb_mode (fb : List Word) (s : State) : (setFb fb s).mode = s.mode := rfl
@[simp] theorem setFb_settleUs (fb : List Word) (s : State) : (setFb fb s).settleUs = s.settleUs := rfl
@[simp] theorem setFb_maskEn (fb : List Word) (s : State) : (setFb fb s).maskEn = s.maskEn := rfl
@[simp] theorem setFb_spiHz (fb : List Word) (s : State) : (setFb fb s).spiHz = s.spiHz := rfl
@[simp] theorem setFb_clkPin (fb : List Word) (s : State) : (setFb fb s).clkPin = s.clkPin := rfl
@[simp] theorem setFb_dataPin (fb : List Word) (s : State) : (setFb fb s).dataPin = s.dataPin := rfl
@[simp] theorem setFb_sb (fb : List Word) (s : State) : (setFb fb s).sb = s.sb := rfl
@[simp] theorem setFb_busy (fb : List Word) (s : State) : (setFb fb s).busy = s.busy := rfl
@[simp] theorem setFb_tp (fb : List Word) (s : State) : (setFb fb s).tp = s.tp := rfl
@[simp] theorem setFb_tb (fb : List Word) (s : State) : (setFb fb s).tb = s.tb := rfl
@[simp] theorem setFb_irqMask (fb : List Word) (s : State) : (setFb fb s).irqMask = s.irqMask := rfl
@[simp] theorem setFb_sclk (fb : List Word) (s : State) : (setFb fb s).sclk = s.sclk := rfl
@[simp] theorem setFb_sdata (fb : List Word) (s : State) : (setFb fb s).sdata = s.sdata := rfl
@[simp] theorem setFb_out (fb : List Word) (s : State) : (setFb fb s).out = s.out := rfl
@[simp] theorem setFb_chips (fb : List Word) (s : State) : (setFb fb s).chips = s.chips := rfl
@[simp] theorem setFb_wait (fb : List Word) (s : State) : (setFb fb s).wait = s.wait := rfl
@[simp] theorem setFb_cmds (fb : List Word) (s : State) : (setFb fb s).cmds = s.cmds := rfl
@[simp] theorem setFb_grants (fb : List Word) (s : State) : (setFb fb s).grants = s.grants := rfl
@[simp] theorem setFb_freeCtr (fb : List Word) (s : State) : (setFb fb s).freeCtr = s.freeCtr := rfl

@[simp] theorem writeWord_fb (o : Nat) (v : Word) (s : State) : (writeWord o v s).fb = s.fb.set o v := rfl
@[simp] theorem writeWord_fc (o : Nat) (v : Word) (s : State) : (writeWord o v s).fc = s.fc := rfl
@[simp] theorem writeWord_xstate (o : Nat) (v : Word) (s : State) : (writeWord o v s).xstate = s.xstate := rfl
@[simp] theorem writeWord_mode (o : Nat) (v : Word) (s : State) : (writeWord o v s).mode = s.mode := rfl
@[simp] theorem writeWord_settleUs (o : Nat) (v : Word) (s : State) : (writeWord o v s).settleUs = s.settleUs := rfl
@[simp] theorem writeWord_maskEn (o : Nat) (v : Word) (s : State) : (writeWord o v s).maskEn = s.maskEn := rfl
@[simp] theorem writeWord_spiHz (o : Nat) (v : Word) (s : State) : (writeWord o v s).spiHz = s.spiHz := rfl
@[simp] theorem writeWord_clkPin (o : Nat) (v : Word) (s : State) : (writeWord o v s).clkPin = s.clkPin := rfl
@[simp] theorem writeWord_dataPin (o : Nat) (v : Word) (s : State) : (writeWord o v s).dataPin = s.dataPin := rfl
@[simp] theorem writeWord_sb (o : Nat) (v : Word) (s : State) : (writeWord o v s).sb = s.sb := rfl
@[simp] theorem writeWord_busy (o : Nat) (v : Word) (s : State) : (writeWord o v s).busy = s.busy := rfl
@[simp] theorem writeWord_tp (o : Nat) (v : Word) (s : State) : (writeWord o v s).tp = s.tp := rfl
@[simp] theorem writeWord_tb (o : Nat) (v : Word) (s : State) : (writeWord o v s).tb = s.tb := rfl
@[simp] theorem writeWord_irqMask (o : Nat) (v : Word) (s : State) : (writeWord o v s).irqMask = s.irqMask := rfl
@[simp] theorem writeWord_sclk (o : Nat) (v : Word) (s : State) : (writeWord o v s).sclk = s.sclk := rfl
@[simp] theorem writeWord_sdata (o : Nat) (v : Word) (s : State) : (writeWord o v s).sdata = s.sdata := rfl
@[simp] theorem writeWord_out (o : Nat) (v : Word) (s : State) : (writeWord o v s).out = s.out := rfl
@[simp] theorem writeWord_chips (o : Nat) (v : Word) (s : State) : (writeWord o v s).chips = s.chips := rfl
@[simp] theorem writeWord_wait (o : Nat) (v : Word) (s : State) : (writeWord o v s).wait = s.wait := rfl
@[simp] theorem writeWord_cmds (o : Nat) (v : Word) (s : State) : (writeWord o v s).cmds = s.cmds := rfl
@[simp] theorem writeWord_grants (o : Nat) (v : Word) (s : State) : (writeWord o v s).grants = s.grants := rfl
@[simp] theorem writeWord_freeCtr (o : Nat) (v : Word) (s : State) : (writeWord o v s).freeCtr = s.freeCtr := rfl

@[simp] theorem emit_fb (e : Event) (s : State) : (emit e s).fb = s.fb := rfl
@[simp] theorem emit_fc (e : Event) (s : State) : (emit e s).fc = s.fc := rfl
@[simp] theorem emit_xstate (e : Event) (s : State) : (emit e s).xstate = s.xstate := rfl
@[simp] theorem emit_mode (e : Event) (s : State) : (emit e s).mode = s.mode := rfl
@[simp] theorem emit_settleUs (e : Event) (s : State) : (emit e s).settleUs = s.settleUs := rfl
@[simp] theorem emit_maskEn (e : Event) (s : State) : (emit e s).maskEn = s.maskEn := rfl
@[simp] theorem emit_spiHz (e : Event) (s : State) : (emit e s).spiHz = s.spiHz := rfl
@[simp] theorem emit_clkPin (e : Event) (s : State) : (emit e s).clkPin = s.clkPin := rfl
@[simp] theorem emit_dataPin (e : Event) (s : State) : (emit e s).dataPin = s.dataPin := rfl
@[simp] theorem emit_sb (e : Event) (s : State) : (emit e s).sb = s.sb := rfl
@[simp] theorem emit_busy (e : Event) (s : State) : (emit e s).busy = s.busy := rfl
@[simp] theorem emit_tp (e : Event) (s : State) : (emit e s).tp = s.tp := rfl
@[simp] theorem emit_tb (e : Event) (s : State) : (emit e s).tb = s.tb := rfl
@[simp] theorem emit_irqMask (e : Event) (s : State) : (emit e s).irqMask = s.irqMask := rfl
@[simp] theorem emit_sclk (e : Event) (s : State) : (emit e s).sclk = s.sclk := rfl
@[simp] theorem emit_sdata (e : Event) (s : State) : (emit e s).sdata = s.sdata := rfl
@[simp] theorem emit_out (e : Event) (s : State) : (emit e s).out = s.out ++ [e] := rfl
@[simp] theorem emit_chips (e : Event) (s : State) : (emit e s).chips = s.chips := rfl
@[simp] theorem emit_wait (e : Event) (s : State) : (emit e s).wait = s.wait := rfl
@[simp] theorem emit_cmds (e : Event) (s : State) : (emit e s).cmds = s.cmds := rfl
@[simp] theorem emit_grants (e : Event) (s : State) : (emit e s).grants = s.grants := rfl
@[simp] theorem emit_freeCtr (e : Event) (s : State) : (emit e s).freeCtr = s.freeCtr := rfl

@[simp] theorem respond_fb (v : Word) (s : State) : (respond v s).fb = s.fb := rfl
@[simp] theorem respond_fc (v : Word) (s : State) : (respond v s).fc = s.fc := rfl
@[simp] theorem respond_xstate (v : Word) (s : State) : (respond v s).xstate = s.xstate := rfl
@[simp] theorem respond_mode (v : Word) (s : State) : (respond v s).mode = s.mode := rfl
@[simp] theorem respond_settleUs (v : Word) (s : State) : (respond v s).settleUs = s.settleUs := rfl
@[simp] theorem respond_maskEn (v : Word) (s : State) : (respond v s).maskEn = s.maskEn := rfl
@[simp] theorem respond_spiHz (v : Word) (s : State) : (respond v s).spiHz = s.spiHz := rfl
@[simp] theorem respond_clkPin (v : Word) (s : State) : (respond v s).clkPin = s.clkPin := rfl
@[simp] theorem respond_dataPin (v : Word) (s : State) : (respond v s).dataPin = s.dataPin := rfl
@[simp] theorem respond_sb (v : Word) (s : State) : (respond v s).sb = s.sb := rfl
@[simp] theorem respond_busy (v : Word) (s : State) : (respond v s).busy = s.busy := rfl
@[simp] theorem respond_tp (v : Word) (s : State) : (respond v s).tp = s.tp := rfl
@[simp] theorem respond_tb (v : Word) (s : State) : (respond v s).tb = s.tb := rfl
@[simp] theorem respond_irqMask (v : Word) (s : State) : (respond v s).irqMask = s.irqMask := rfl
@[simp] theorem respond_sclk (v : Word) (s : State) : (respond v s).sclk = s.sclk := rfl
@[simp] theorem respond_sdata (v : Word) (s : State) : (respond v s).sdata = s.sdata := rfl
@[simp] theorem respond_out (v : Word) (s : State) : (respond v s).out = s.out ++ [.rsp v] := rfl
@[simp] theorem respond_chips (v : Word) (s : State) : (respond v s).chips = s.chips := rfl
@[simp] theorem respond_wait (v : Word) (s : State) : (respond v s).wait = s.wait := rfl
@[simp] theorem respond_cmds (v : Word) (s : State) : (respond v s).cmds = s.cmds := rfl
@[simp] theorem respond_grants (v : Word) (s : State) : (respond v s).grants = s.grants := rfl
@[simp] theorem respond_freeCtr (v : Word) (s : State) : (respond v s).freeCtr = s.freeCtr := rfl

@[simp] theorem driveData_fb (b : Bool) (s : State) : (driveData b s).fb = s.fb := rfl
@[simp] theorem driveData_fc (b : Bool) (s : State) : (driveData b s).fc = s.fc := rfl
@[simp] theorem driveData_xstate (b : Bool) (s : State) : (driveData b s).xstate = s.xstate := rfl
@[simp] theorem driveData_mode (b : Bool) (s : State) : (driveData b s).mode = s.mode := rfl
@[simp] theorem driveData_settleUs (b : Bool) (s : State) : (driveData b s).settleUs = s.settleUs := rfl
@[simp] theorem driveData_maskEn (b : Bool) (s : State) : (driveData b s).maskEn = s.maskEn := rfl
@[simp] theorem driveData_spiHz (b : Bool) (s : State) : (driveData b s).spiHz = s.spiHz := rfl
@[simp] theorem driveData_clkPin (b : Bool) (s : State) : (driveData b s).clkPin = s.clkPin := rfl
@[simp] theorem driveData_dataPin (b : Bool) (s : State) : (driveData b s).dataPin = s.dataPin := rfl
@[simp] theorem driveData_sb (b : Bool) (s : State) : (driveData b s).sb = s.sb := rfl
@[simp] theorem driveData_busy (b : Bool) (s : State) : (driveData b s).busy = s.busy := rfl
@[simp] theorem driveData_tp (b : Bool) (s : State) : (driveData b s).tp = s.tp := rfl
@[simp] theorem driveData_tb (b : Bool) (s : State) : (driveData b s).tb = s.tb := rfl
@[simp] theorem driveData_irqMask (b : Bool) (s : State) : (driveData b s).irqMask = s.irqMask := rfl
@[simp] theorem driveData_sclk (b : Bool) (s : State) : (driveData b s).sclk = s.sclk := rfl
@[simp] theorem driveData_sdata (b : Bool) (s : State) : (driveData b s).sdata = b := rfl
@[simp] theorem driveData_out (b : Bool) (s : State) : (driveData b s).out = s.out ++ [.data b] := rfl
@[simp] theorem driveData_chips (b : Bool) (s : State) : (driveData b s).chips = s.chips := rfl
@[simp] theorem driveData_wait (b : Bool) (s : State) : (driveData b s).wait = s.wait := rfl
@[simp] theorem driveData_cmds (b : Bool) (s : State) : (driveData b s).cmds = s.cmds := rfl
@[simp] theorem driveData_grants (b : Bool) (s : State) : (driveData b s).grants = s.grants := rfl
@[simp] theorem driveData_freeCtr (b : Bool) (s : State) : (driveData b s).freeCtr = s.freeCtr := rfl

@[simp] theorem driveClk_fb (l : Bool) (s : State) : (driveClk l s).fb = s.fb := rfl
@[simp] theorem driveClk_fc (l : Bool) (s : State) : (driveClk l s).fc = s.fc := rfl
@[simp] theorem driveClk_xstate (l : Bool) (s : State) : (driveClk l s).xstate = s.xstate := rfl
@[simp] theorem driveClk_mode (l : Bool) (s : State) : (driveClk l s).mode = s.mode := rfl
@[simp] theorem driveClk_settleUs (l : Bool) (s : State) : (driveClk l s).settleUs = s.settleUs := rfl
@[simp] theorem driveClk_maskEn (l : Bool) (s : State) : (driveClk l s).maskEn = s.maskEn := rfl
@[simp] theorem driveClk_spiHz (l : Bool) (s : State) : (driveClk l s).spiHz = s.spiHz := rfl
@[simp] theorem driveClk_clkPin (l : Bool) (s : State) : (driveClk l s).clkPin = s.clkPin := rfl
@[simp] theorem driveClk_dataPin (l : Bool) (s : State) : (driveClk l s).dataPin = s.dataPin := rfl
@[simp] theorem driveClk_sb (l : Bool) (s : State) : (driveClk l s).sb = s.sb := rfl
@[simp] theorem driveClk_busy (l : Bool) (s : State) : (driveClk l s).busy = s.busy := rfl
@[simp] theorem driveClk_tp (l : Bool) (s : State) : (driveClk l s).tp = s.tp := rfl
@[simp] theorem driveClk_tb (l : Bool) (s : State) : (driveClk l s).tb = s.tb := rfl
@[simp] theorem driveClk_irqMask (l : Bool) (s : State) : (driveClk l s).irqMask = s.irqMask := rfl
@[simp] theorem driveClk_sclk (l : Bool) (s : State) : (driveClk l s).sclk = l := rfl
@[simp] theorem driveClk_sdata (l : Bool) (s : State) : (driveClk l s).sdata = s.sdata := rfl
@[simp] theorem driveClk_out (l : Bool) (s : State) : (driveClk l s).out = s.out ++ [.clk l] := rfl
@[simp] theorem driveClk_chips (l : Bool) (s : State) : (driveClk l s).chips = s.chips := rfl
@[simp] theorem driveClk_wait (l : Bool) (s : State) : (driveClk l s).wait = s.wait := rfl
@[simp] theorem driveClk_cmds (l : Bool) (s : State) : (driveClk l s).cmds = s.cmds := rfl
@[simp] theorem driveClk_grants (l : Bool) (s : State) : (driveClk l s).grants = s.grants := rfl
@[simp] theorem driveClk_freeCtr (l : Bool) (s : State) : (driveClk l s).freeCtr = s.freeCtr := rfl

@[simp] theorem releaseLevels_fb (s : State) : (releaseLevels s).fb = s.fb := rfl
@[simp] theorem releaseLevels_fc (s : State) : (releaseLevels s).fc = s.fc := rfl
@[simp] theorem releaseLevels_xstate (s : State) : (releaseLevels s).xstate = s.xstate := rfl
@[simp] theorem releaseLevels_mode (s : State) : (releaseLevels s).mode = s.mode := rfl
@[simp] theorem releaseLevels_settleUs (s : State) : (releaseLevels s).settleUs = s.settleUs := rfl
@[simp] theorem releaseLevels_maskEn (s : State) : (releaseLevels s).maskEn = s.maskEn := rfl
@[simp] theorem releaseLevels_spiHz (s : State) : (releaseLevels s).spiHz = s.spiHz := rfl
@[simp] theorem releaseLevels_clkPin (s : State) : (releaseLevels s).clkPin = s.clkPin := rfl
@[simp] theorem releaseLevels_dataPin (s : State) : (releaseLevels s).dataPin = s.dataPin := rfl
@[simp] theorem releaseLevels_sb (s : State) : (releaseLevels s).sb = s.sb := rfl
@[simp] theorem releaseLevels_busy (s : State) : (releaseLevels s).busy = s.busy := rfl
@[simp] theorem releaseLevels_tp (s : State) : (releaseLevels s).tp = s.tp := rfl
@[simp] theorem releaseLevels_tb (s : State) : (releaseLevels s).tb = s.tb := rfl
@[simp] theorem releaseLevels_irqMask (s : State) : (releaseLevels s).irqMask = s.irqMask := rfl
@[simp] theorem releaseLevels_sclk (s : State) : (releaseLevels s).sclk = Config.releasedLevel (2 * s.freeCtr) := rfl
@[simp] theorem releaseLevels_sdata (s : State) : (releaseLevels s).sdata = Config.releasedLevel (2 * s.freeCtr + 1) := rfl
@[simp] theorem releaseLevels_out (s : State) : (releaseLevels s).out = s.out := rfl
@[simp] theorem releaseLevels_chips (s : State) : (releaseLevels s).chips = s.chips := rfl
@[simp] theorem releaseLevels_wait (s : State) : (releaseLevels s).wait = s.wait := rfl
@[simp] theorem releaseLevels_cmds (s : State) : (releaseLevels s).cmds = s.cmds := rfl
@[simp] theorem releaseLevels_grants (s : State) : (releaseLevels s).grants = s.grants := rfl
@[simp] theorem releaseLevels_freeCtr (s : State) : (releaseLevels s).freeCtr = s.freeCtr + 1 := rfl

@[simp] theorem staleStaging_fb (s : State) : (staleStaging s).fb = s.fb := rfl
@[simp] theorem staleStaging_fc (s : State) : (staleStaging s).fc = s.fc := rfl
@[simp] theorem staleStaging_xstate (s : State) : (staleStaging s).xstate = s.xstate := rfl
@[simp] theorem staleStaging_mode (s : State) : (staleStaging s).mode = s.mode := rfl
@[simp] theorem staleStaging_settleUs (s : State) : (staleStaging s).settleUs = s.settleUs := rfl
@[simp] theorem staleStaging_maskEn (s : State) : (staleStaging s).maskEn = s.maskEn := rfl
@[simp] theorem staleStaging_spiHz (s : State) : (staleStaging s).spiHz = s.spiHz := rfl
@[simp] theorem staleStaging_clkPin (s : State) : (staleStaging s).clkPin = s.clkPin := rfl
@[simp] theorem staleStaging_dataPin (s : State) : (staleStaging s).dataPin = s.dataPin := rfl
@[simp] theorem staleStaging_sb (s : State) : (staleStaging s).sb = (List.range (nb s.chips)).map (Config.staleByte s.freeCtr) := rfl
@[simp] theorem staleStaging_busy (s : State) : (staleStaging s).busy = s.busy := rfl
@[simp] theorem staleStaging_tp (s : State) : (staleStaging s).tp = s.tp := rfl
@[simp] theorem staleStaging_tb (s : State) : (staleStaging s).tb = s.tb := rfl
@[simp] theorem staleStaging_irqMask (s : State) : (staleStaging s).irqMask = s.irqMask := rfl
@[simp] theorem staleStaging_sclk (s : State) : (staleStaging s).sclk = s.sclk := rfl
@[simp] theorem staleStaging_sdata (s : State) : (staleStaging s).sdata = s.sdata := rfl
@[simp] theorem staleStaging_out (s : State) : (staleStaging s).out = s.out := rfl
@[simp] theorem staleStaging_chips (s : State) : (staleStaging s).chips = s.chips := rfl
@[simp] theorem staleStaging_wait (s : State) : (staleStaging s).wait = s.wait := rfl
@[simp] theorem staleStaging_cmds (s : State) : (staleStaging s).cmds = s.cmds := rfl
@[simp] theorem staleStaging_grants (s : State) : (staleStaging s).grants = s.grants := rfl
@[simp] theorem staleStaging_freeCtr (s : State) : (staleStaging s).freeCtr = s.freeCtr + 1 := rfl

@[simp] theorem suspend_fb (w : Wait) (s : State) : (suspend w s).fb = s.fb := rfl
@[simp] theorem suspend_fc (w : Wait) (s : State) : (suspend w s).fc = s.fc := rfl
@[simp] theorem suspend_xstate (w : Wait) (s : State) : (suspend w s).xstate = s.xstate := rfl
@[simp] theorem suspend_mode (w : Wait) (s : State) : (suspend w s).mode = s.mode := rfl
@[simp] theorem suspend_settleUs (w : Wait) (s : State) : (suspend w s).settleUs = s.settleUs := rfl
@[simp] theorem suspend_maskEn (w : Wait) (s : State) : (suspend w s).maskEn = s.maskEn := rfl
@[simp] theorem suspend_spiHz (w : Wait) (s : State) : (suspend w s).spiHz = s.spiHz := rfl
@[simp] theorem suspend_clkPin (w : Wait) (s : State) : (suspend w s).clkPin = s.clkPin := rfl
@[simp] theorem suspend_dataPin (w : Wait) (s : State) : (suspend w s).dataPin = s.dataPin := rfl
@[simp] theorem suspend_sb (w : Wait) (s : State) : (suspend w s).sb = s.sb := rfl
@[simp] theorem suspend_busy (w : Wait) (s : State) : (suspend w s).busy = s.busy := rfl
@[simp] theorem suspend_tp (w : Wait) (s : State) : (suspend w s).tp = s.tp := rfl
@[simp] theorem suspend_tb (w : Wait) (s : State) : (suspend w s).tb = s.tb := rfl
@[simp] theorem suspend_irqMask (w : Wait) (s : State) : (suspend w s).irqMask = s.irqMask := rfl
@[simp] theorem suspend_sclk (w : Wait) (s : State) : (suspend w s).sclk = s.sclk := rfl
@[simp] theorem suspend_sdata (w : Wait) (s : State) : (suspend w s).sdata = s.sdata := rfl
@[simp] theorem suspend_out (w : Wait) (s : State) : (suspend w s).out = s.out := rfl
@[simp] theorem suspend_chips (w : Wait) (s : State) : (suspend w s).chips = s.chips := rfl
@[simp] theorem suspend_wait (w : Wait) (s : State) : (suspend w s).wait = w := rfl
@[simp] theorem suspend_cmds (w : Wait) (s : State) : (suspend w s).cmds = s.cmds := rfl
@[simp] theorem suspend_grants (w : Wait) (s : State) : (suspend w s).grants = s.grants := rfl
@[simp] theorem suspend_freeCtr (w : Wait) (s : State) : (suspend w s).freeCtr = s.freeCtr := rfl

@[simp] theorem setConfigured_fb (m : Mode) (us : Word) (e : Bool) (s : State) : (setConfigured m us e s).fb = s.fb := rfl
@[simp] theorem setConfigured_fc (m : Mode) (us : Word) (e : Bool) (s : State) : (setConfigured m us e s).fc = s.fc := rfl
@[simp] theorem setConfigured_xstate (m : Mode) (us : Word) (e : Bool) (s : State) : (setConfigured m us e s).xstate = .configured := rfl
@[simp] theorem setConfigured_mode (m : Mode) (us : Word) (e : Bool) (s : State) : (setConfigured m us e s).mode = m := rfl
@[simp] theorem setConfigured_settleUs (m : Mode) (us : Word) (e : Bool) (s : State) : (setConfigured m us e s).settleUs = us := rfl
@[simp] theorem setConfigured_maskEn (m : Mode) (us : Word) (e : Bool) (s : State) : (setConfigured m us e s).maskEn = e := rfl
@[simp] theorem setConfigured_spiHz (m : Mode) (us : Word) (e : Bool) (s : State) : (setConfigured m us e s).spiHz = s.spiHz := rfl
@[simp] theorem setConfigured_clkPin (m : Mode) (us : Word) (e : Bool) (s : State) : (setConfigured m us e s).clkPin = s.clkPin := rfl
@[simp] theorem setConfigured_dataPin (m : Mode) (us : Word) (e : Bool) (s : State) : (setConfigured m us e s).dataPin = s.dataPin := rfl
@[simp] theorem setConfigured_sb (m : Mode) (us : Word) (e : Bool) (s : State) : (setConfigured m us e s).sb = s.sb := rfl
@[simp] theorem setConfigured_busy (m : Mode) (us : Word) (e : Bool) (s : State) : (setConfigured m us e s).busy = s.busy := rfl
@[simp] theorem setConfigured_tp (m : Mode) (us : Word) (e : Bool) (s : State) : (setConfigured m us e s).tp = s.tp := rfl
@[simp] theorem setConfigured_tb (m : Mode) (us : Word) (e : Bool) (s : State) : (setConfigured m us e s).tb = s.tb := rfl
@[simp] theorem setConfigured_irqMask (m : Mode) (us : Word) (e : Bool) (s : State) : (setConfigured m us e s).irqMask = s.irqMask := rfl
@[simp] theorem setConfigured_sclk (m : Mode) (us : Word) (e : Bool) (s : State) : (setConfigured m us e s).sclk = s.sclk := rfl
@[simp] theorem setConfigured_sdata (m : Mode) (us : Word) (e : Bool) (s : State) : (setConfigured m us e s).sdata = s.sdata := rfl
@[simp] theorem setConfigured_out (m : Mode) (us : Word) (e : Bool) (s : State) : (setConfigured m us e s).out = s.out := rfl
@[simp] theorem setConfigured_chips (m : Mode) (us : Word) (e : Bool) (s : State) : (setConfigured m us e s).chips = s.chips := rfl
@[simp] theorem setConfigured_wait (m : Mode) (us : Word) (e : Bool) (s : State) : (setConfigured m us e s).wait = s.wait := rfl
@[simp] theorem setConfigured_cmds (m : Mode) (us : Word) (e : Bool) (s : State) : (setConfigured m us e s).cmds = s.cmds := rfl
@[simp] theorem setConfigured_grants (m : Mode) (us : Word) (e : Bool) (s : State) : (setConfigured m us e s).grants = s.grants := rfl
@[simp] theorem setConfigured_freeCtr (m : Mode) (us : Word) (e : Bool) (s : State) : (setConfigured m us e s).freeCtr = s.freeCtr := rfl

@[simp] theorem setBusy_fb (s : State) : (setBusy s).fb = s.fb := rfl
@[simp] theorem setBusy_fc (s : State) : (setBusy s).fc = s.fc := rfl
@[simp] theorem setBusy_xstate (s : State) : (setBusy s).xstate = s.xstate := rfl
@[simp] theorem setBusy_mode (s : State) : (setBusy s).mode = s.mode := rfl
@[simp] theorem setBusy_settleUs (s : State) : (setBusy s).settleUs = s.settleUs := rfl
@[simp] theorem setBusy_maskEn (s : State) : (setBusy s).maskEn = s.maskEn := rfl
@[simp] theorem setBusy_spiHz (s : State) : (setBusy s).spiHz = s.spiHz := rfl
@[simp] theorem setBusy_clkPin (s : State) : (setBusy s).clkPin = s.clkPin := rfl
@[simp] theorem setBusy_dataPin (s : State) : (setBusy s).dataPin = s.dataPin := rfl
@[simp] theorem setBusy_sb (s : State) : (setBusy s).sb = s.sb := rfl
@[simp] theorem setBusy_busy (s : State) : (setBusy s).busy = true := rfl
@[simp] theorem setBusy_tp (s : State) : (setBusy s).tp = s.tp := rfl
@[simp] theorem setBusy_tb (s : State) : (setBusy s).tb = s.tb := rfl
@[simp] theorem setBusy_irqMask (s : State) : (setBusy s).irqMask = s.irqMask := rfl
@[simp] theorem setBusy_sclk (s : State) : (setBusy s).sclk = s.sclk := rfl
@[simp] theorem setBusy_sdata (s : State) : (setBusy s).sdata = s.sdata := rfl
@[simp] theorem setBusy_out (s : State) : (setBusy s).out = s.out := rfl
@[simp] theorem setBusy_chips (s : State) : (setBusy s).chips = s.chips := rfl
@[simp] theorem setBusy_wait (s : State) : (setBusy s).wait = s.wait := rfl
@[simp] theorem setBusy_cmds (s : State) : (setBusy s).cmds = s.cmds := rfl
@[simp] theorem setBusy_grants (s : State) : (setBusy s).grants = s.grants := rfl
@[simp] theorem setBusy_freeCtr (s : State) : (setBusy s).freeCtr = s.freeCtr := rfl

@[simp] theorem clearBusy_fb (s : State) : (clearBusy s).fb = s.fb := rfl
@[simp] theorem clearBusy_fc (s : State) : (clearBusy s).fc = s.fc := rfl
@[simp] theorem clearBusy_xstate (s : State) : (clearBusy s).xstate = s.xstate := rfl
@[simp] theorem clearBusy_mode (s : State) : (clearBusy s).mode = s.mode := rfl
@[simp] theorem clearBusy_settleUs (s : State) : (clearBusy s).settleUs = s.settleUs := rfl
@[simp] theorem clearBusy_maskEn (s : State) : (clearBusy s).maskEn = s.maskEn := rfl
@[simp] theorem clearBusy_spiHz (s : State) : (clearBusy s).spiHz = s.spiHz := rfl
@[simp] theorem clearBusy_clkPin (s : State) : (clearBusy s).clkPin = s.clkPin := rfl
@[simp] theorem clearBusy_dataPin (s : State) : (clearBusy s).dataPin = s.dataPin := rfl
@[simp] theorem clearBusy_sb (s : State) : (clearBusy s).sb = s.sb := rfl
@[simp] theorem clearBusy_busy (s : State) : (clearBusy s).busy = false := rfl
@[simp] theorem clearBusy_tp (s : State) : (clearBusy s).tp = s.tp := rfl
@[simp] theorem clearBusy_tb (s : State) : (clearBusy s).tb = s.tb := rfl
@[simp] theorem clearBusy_irqMask (s : State) : (clearBusy s).irqMask = s.irqMask := rfl
@[simp] theorem clearBusy_sclk (s : State) : (clearBusy s).sclk = s.sclk := rfl
@[simp] theorem clearBusy_sdata (s : State) : (clearBusy s).sdata = s.sdata := rfl
@[simp] theorem clearBusy_out (s : State) : (clearBusy s).out = s.out := rfl
@[simp] theorem clearBusy_chips (s : State) : (clearBusy s).chips = s.chips := rfl
@[simp] theorem clearBusy_wait (s : State) : (clearBusy s).wait = s.wait := rfl
@[simp] theorem clearBusy_cmds (s : State) : (clearBusy s).cmds = s.cmds := rfl
@[simp] theorem clearBusy_grants (s : State) : (clearBusy s).grants = s.grants := rfl
@[simp] theorem clearBusy_freeCtr (s : State) : (clearBusy s).freeCtr = s.freeCtr := rfl

@[simp] theorem fillStaging_fb (s : State) : (fillStaging s).fb = s.fb := rfl
@[simp] theorem fillStaging_fc (s : State) : (fillStaging s).fc = s.fc := rfl
@[simp] theorem fillStaging_xstate (s : State) : (fillStaging s).xstate = s.xstate := rfl
@[simp] theorem fillStaging_mode (s : State) : (fillStaging s).mode = s.mode := rfl
@[simp] theorem fillStaging_settleUs (s : State) : (fillStaging s).settleUs = s.settleUs := rfl
@[simp] theorem fillStaging_maskEn (s : State) : (fillStaging s).maskEn = s.maskEn := rfl
@[simp] theorem fillStaging_spiHz (s : State) : (fillStaging s).spiHz = s.spiHz := rfl
@[simp] theorem fillStaging_clkPin (s : State) : (fillStaging s).clkPin = s.clkPin := rfl
@[simp] theorem fillStaging_dataPin (s : State) : (fillStaging s).dataPin = s.dataPin := rfl
@[simp] theorem fillStaging_sb (s : State) : (fillStaging s).sb = frameBytes s.fb := rfl
@[simp] theorem fillStaging_busy (s : State) : (fillStaging s).busy = s.busy := rfl
@[simp] theorem fillStaging_tp (s : State) : (fillStaging s).tp = s.tp := rfl
@[simp] theorem fillStaging_tb (s : State) : (fillStaging s).tb = s.tb := rfl
@[simp] theorem fillStaging_irqMask (s : State) : (fillStaging s).irqMask = s.irqMask := rfl
@[simp] theorem fillStaging_sclk (s : State) : (fillStaging s).sclk = s.sclk := rfl
@[simp] theorem fillStaging_sdata (s : State) : (fillStaging s).sdata = s.sdata := rfl
@[simp] theorem fillStaging_out (s : State) : (fillStaging s).out = s.out := rfl
@[simp] theorem fillStaging_chips (s : State) : (fillStaging s).chips = s.chips := rfl
@[simp] theorem fillStaging_wait (s : State) : (fillStaging s).wait = s.wait := rfl
@[simp] theorem fillStaging_cmds (s : State) : (fillStaging s).cmds = s.cmds := rfl
@[simp] theorem fillStaging_grants (s : State) : (fillStaging s).grants = s.grants := rfl
@[simp] theorem fillStaging_freeCtr (s : State) : (fillStaging s).freeCtr = s.freeCtr := rfl

end Sys2Proof.Machine
end

