-- ==== Sys2Proof/Laws/Storage.lean ====
section
/-! SUPPORT. What the operations on the frame buffer do: what every offset reads as afterwards, and that the number of
words is kept. -/

namespace Sys2Proof.Machine

/-- Reading a list after setting one of its entries. -/
theorem getD_set_eq (l : List Word) (i : Nat) (v : Word) (o : Nat) :
    (l.set i v).getD o 0 = if o = i ∧ i < l.length then v else l.getD o 0 := by
  simp only [List.getD_eq_getElem?_getD, List.getElem?_set]
  by_cases h : i = o
  · subst h
    by_cases h' : i < l.length <;> simp [h']
  · have h' : ¬o = i := fun e => h e.symm
    simp [h, h']

/-- Two frame buffers of one length that read alike at every offset are equal. -/
theorem fb_ext {l m : List Word} (hlen : l.length = m.length) (h : ∀ o < l.length, l.getD o 0 = m.getD o 0) : l = m := by
  apply List.ext_getElem hlen
  intro o h₁ h₂
  have := h o h₁
  simpa [List.getD_eq_getElem?_getD, h₁, h₂] using this

/-- An offset past the end reads 0. -/
theorem getD_of_length_le {l : List Word} {o : Nat} (h : l.length ≤ o) : l.getD o 0 = 0 := by
  simp [List.getD_eq_getElem?_getD, h]

theorem writeWord_read (s : State) (i : Nat) (v : Word) (o : Nat) :
    readWord (writeWord i v s) o = if o = i ∧ i < s.fb.length then v else readWord s o :=
  getD_set_eq s.fb i v o

theorem length_loop {α : Type} (f : Nat → List α → List α) (h : ∀ k l, (f k l).length = l.length) (n : Nat)
    (l : List α) : (loop f n l).length = l.length := by
  induction n with
  | zero => rfl
  | succ n ih => rw [loop, h, ih]

@[simp] theorem length_putLed (base : Nat) (r g b : Word) (fb : List Word) :
    (putLed base r g b fb).length = fb.length := by
  simp [putLed]

@[simp] theorem length_putCtl (base : Nat) (cw : CtlWord) (fb : List Word) :
    (putCtl base cw fb).length = fb.length := by
  simp [putCtl]

@[simp] theorem length_putChipLeds (r g b : Word) (c : Nat) (fb : List Word) :
    (putChipLeds r g b c fb).length = fb.length :=
  length_loop _ (by simp) 4 fb

@[simp] theorem length_putAllLeds (r g b : Word) (n : Nat) (fb : List Word) :
    (putAllLeds r g b n fb).length = fb.length :=
  length_loop _ (by simp) n fb

@[simp] theorem length_putAllCtl (cw : CtlWord) (n : Nat) (fb : List Word) :
    (putAllCtl cw n fb).length = fb.length :=
  length_loop _ (by simp) n fb

@[simp] theorem length_putChipDefault (cw : CtlWord) (c : Nat) (fb : List Word) :
    (putChipDefault cw c fb).length = fb.length := by
  simp only [putChipDefault, length_putCtl]
  exact length_loop _ (by simp) 12 fb

@[simp] theorem length_putAllDefault (cw : CtlWord) (n : Nat) (fb : List Word) :
    (putAllDefault cw n fb).length = fb.length :=
  length_loop _ (by simp) n fb

/-- An LED's three words read as written, every other offset as before. -/
theorem putLed_getD (base : Nat) (r g b : Word) (fb : List Word) (h : base + 2 < fb.length) (o : Nat) :
    (putLed base r g b fb).getD o 0 =
      if o = base then r else if o = base + 1 then g else if o = base + 2 then b else fb.getD o 0 := by
  simp only [putLed, getD_set_eq, List.length_set]
  split_ifs <;> first | rfl | omega

/-- A control word's two halves read as written, every other offset as before. -/
theorem putCtl_getD (base : Nat) (cw : CtlWord) (fb : List Word) (h : base + 1 < fb.length) (o : Nat) :
    (putCtl base cw fb).getD o 0 =
      if o = base then ctlLow cw else if o = base + 1 then ctlHigh cw else fb.getD o 0 := by
  simp only [putCtl, getD_set_eq, List.length_set]
  split_ifs <;> first | rfl | omega

/-- The first `n` LEDs of a chip. -/
theorem chipLeds_getD (r g b : Word) (c n : Nat) (fb : List Word) (hn : n ≤ 4) (h : 14 * c + 13 < fb.length) (o : Nat) :
    (loop (fun k fb => putLed (14 * c + 3 * k) r g b fb) n fb).getD o 0 =
      if 14 * c ≤ o ∧ o < 14 * c + 3 * n then
        (if (o - 14 * c) % 3 = 0 then r else if (o - 14 * c) % 3 = 1 then g else b)
      else fb.getD o 0 := by
  induction n with
  | zero =>
    have : ¬(14 * c ≤ o ∧ o < 14 * c + 3 * 0) := by omega
    simp only [loop, if_neg this]
  | succ n ih =>
    rw [loop, putLed_getD _ _ _ _ _ (by rw [length_loop _ (by simp)]; omega), ih (by omega)]
    split_ifs <;> first | rfl | omega

/-- The four LEDs of a chip: its slots 0 to 11 hold red, green, blue in turn, every other offset reads as before. -/
theorem putChipLeds_getD (r g b : Word) (c : Nat) (fb : List Word) (h : 14 * c + 13 < fb.length) (o : Nat) :
    (putChipLeds r g b c fb).getD o 0 =
      if o / 14 = c ∧ o % 14 ≤ 11 then
        (if o % 14 % 3 = 0 then r else if o % 14 % 3 = 1 then g else b)
      else fb.getD o 0 := by
  rw [putChipLeds, chipLeds_getD r g b c 4 fb (by omega) h]
  by_cases hc : o / 14 = c ∧ o % 14 ≤ 11
  · have h₁ : o - 14 * c = o % 14 := by omega
    rw [if_pos hc, if_pos (by omega), h₁]
  · rw [if_neg hc, if_neg (by omega)]

/-- Clearing a chip's slots 0 to 11. -/
theorem clearSlots_getD (c n : Nat) (fb : List Word) (hn : n ≤ 12) (h : 14 * c + 13 < fb.length) (o : Nat) :
    (loop (fun k fb => fb.set (14 * c + k) 0) n fb).getD o 0 =
      if 14 * c ≤ o ∧ o < 14 * c + n then 0 else fb.getD o 0 := by
  induction n with
  | zero =>
    have : ¬(14 * c ≤ o ∧ o < 14 * c + 0) := by omega
    simp only [loop, if_neg this]
  | succ n ih =>
    rw [loop, getD_set_eq, ih (by omega), length_loop _ (by simp)]
    split_ifs <;> first | rfl | omega

/-- A chip in the default device state: slots 0 to 11 zero, then the two halves of the control word. -/
theorem putChipDefault_getD (cw : CtlWord) (c : Nat) (fb : List Word) (h : 14 * c + 13 < fb.length) (o : Nat) :
    (putChipDefault cw c fb).getD o 0 =
      if o / 14 = c then
        (if o % 14 ≤ 11 then 0 else if o % 14 = 12 then ctlLow cw else ctlHigh cw)
      else fb.getD o 0 := by
  unfold putChipDefault
  rw [putCtl_getD _ _ _ (by rw [length_loop _ (by simp)]; omega), clearSlots_getD c 12 fb (by omega) h]
  split_ifs <;> first | rfl | omega

/-- A loop over the chips whose body rewrites the words of its own chip only: every chip of the loop is rewritten once,
every other offset reads as before. -/
theorem loop_getD (f : Nat → List Word → List Word) (g : Nat → Word → Word)
    (hlen : ∀ c fb, (f c fb).length = fb.length)
    (hget : ∀ c fb, 14 * c + 13 < fb.length → ∀ o,
      (f c fb).getD o 0 = if o / 14 = c then g (o % 14) (fb.getD o 0) else fb.getD o 0)
    (n : Nat) (fb : List Word) (h : 14 * n ≤ fb.length) (o : Nat) :
    (loop f n fb).getD o 0 = if o / 14 < n then g (o % 14) (fb.getD o 0) else fb.getD o 0 := by
  induction n with
  | zero => simp [loop]
  | succ n ih =>
    rw [loop, hget n _ (by rw [length_loop f hlen]; omega), ih (by omega)]
    split_ifs <;> first | rfl | omega

/-- Every LED of the chips `0 .. n-1`; control words and later offsets as before. -/
theorem putAllLeds_getD (r g b : Word) (n : Nat) (fb : List Word) (h : 14 * n ≤ fb.length) (o : Nat) :
    (putAllLeds r g b n fb).getD o 0 =
      if o / 14 < n ∧ o % 14 ≤ 11 then
        (if o % 14 % 3 = 0 then r else if o % 14 % 3 = 1 then g else b)
      else fb.getD o 0 := by
  rw [putAllLeds, loop_getD (putChipLeds r g b)
    (fun s w => if s ≤ 11 then (if s % 3 = 0 then r else if s % 3 = 1 then g else b) else w) (by simp) _ n fb h]
  · split_ifs <;> first | rfl | omega
  · intro c fb hc o
    rw [putChipLeds_getD _ _ _ _ _ hc]
    split_ifs <;> first | rfl | omega

/-- Every control word of the chips `0 .. n-1`; grayscale words and later offsets as before. -/
theorem putAllCtl_getD (cw : CtlWord) (n : Nat) (fb : List Word) (h : 14 * n ≤ fb.length) (o : Nat) :
    (putAllCtl cw n fb).getD o 0 =
      if o / 14 < n ∧ 12 ≤ o % 14 then (if o % 14 = 12 then ctlLow cw else ctlHigh cw) else fb.getD o 0 := by
  rw [putAllCtl, loop_getD (fun c fb => putCtl (14 * c + 12) cw fb)
    (fun s w => if 12 ≤ s then (if s = 12 then ctlLow cw else ctlHigh cw) else w) (by simp) _ n fb h]
  · split_ifs <;> first | rfl | omega
  · intro c fb hc o
    rw [putCtl_getD _ _ _ (by omega)]
    split_ifs <;> first | rfl | omega

/-- The chips `0 .. n-1` in the default device state; later offsets as before. -/
theorem putAllDefault_getD (cw : CtlWord) (n : Nat) (fb : List Word) (h : 14 * n ≤ fb.length) (o : Nat) :
    (putAllDefault cw n fb).getD o 0 =
      if o / 14 < n then (if o % 14 ≤ 11 then 0 else if o % 14 = 12 then ctlLow cw else ctlHigh cw)
      else fb.getD o 0 := by
  rw [putAllDefault, loop_getD (putChipDefault cw)
    (fun s _ => if s ≤ 11 then 0 else if s = 12 then ctlLow cw else ctlHigh cw) (by simp) _ n fb h]
  intro c fb hc o
  exact putChipDefault_getD cw c fb hc o

/-- The storage has the block's sizes, in words and bytes. -/
theorem wf_iff (s : State) : Memory.wf s = true ↔ s.fb.length = 14 * s.chips ∧ s.sb.length = 28 * s.chips := by
  simp [Memory.wf, nw, nb]

theorem wf_fb {s : State} (h : Memory.wf s = true) : s.fb.length = 14 * s.chips := ((wf_iff s).1 h).1

theorem wf_sb {s : State} (h : Memory.wf s = true) : s.sb.length = 28 * s.chips := ((wf_iff s).1 h).2

/-- A frame buffer of the same length keeps the storage's form. -/
theorem wf_setFb (fb : List Word) (s : State) (hfb : fb.length = s.fb.length) (h : Memory.wf s = true) :
    Memory.wf (setFb fb s) = true := by
  rw [wf_iff] at h ⊢
  exact ⟨by simpa [hfb] using h.1, by simpa using h.2⟩

theorem wf_writeWord (o : Nat) (v : Word) (s : State) (h : Memory.wf s = true) : Memory.wf (writeWord o v s) = true :=
  wf_setFb _ s (by simp) h

theorem wf_writeChannel (idx : Nat) (v : Word) (s : State) (h : Memory.wf s = true) :
    Memory.wf (writeChannel idx v s) = true := by
  unfold writeChannel
  split
  · exact wf_writeWord _ _ _ h
  · exact h

theorem length_frameBytes (fb : List Word) : (frameBytes fb).length = 2 * fb.length := by
  have : ∀ l : List Word, (l.flatMap fun w => [highByte w, lowByte w]).length = 2 * l.length := by
    intro l
    induction l with
    | nil => rfl
    | cons w l ih => simp only [List.flatMap_cons, List.length_append, ih, List.length_cons, List.length_nil]; omega
  simp [frameBytes, frameWords, this]

/-- The fill of the staging buffer keeps the storage's form. -/
theorem wf_fillStaging (s : State) (h : Memory.wf s = true) : Memory.wf (fillStaging s) = true := by
  rw [wf_iff] at h ⊢
  refine ⟨by simpa using h.1, ?_⟩
  simp only [fillStaging_sb, fillStaging_chips, length_frameBytes, h.1]
  omega

/-- The free values of the staging buffer keep the storage's form. -/
theorem wf_staleStaging (s : State) (h : Memory.wf s = true) : Memory.wf (staleStaging s) = true := by
  rw [wf_iff] at h ⊢
  exact ⟨by simpa using h.1, by simp [nb]⟩

/-- The storage right after construction has its form. -/
theorem wf_construct (c : Nat) (t : Bool) : Memory.wf (State.construct c t) = true := by
  simp [wf_iff, State.construct]

theorem wf_reset : Memory.wf State.reset = true := wf_construct _ _

end Sys2Proof.Machine
end

