-- ==== Sys2Proof/Laws/Wire.lean ====
section
/-! SUPPORT. The frame and the bit stream: lengths, positions, and the stream of joined event lists. -/

namespace Sys2Proof.Machine

/-- The sixteen bits of a word, counted down. -/
theorem wordBits_eq_reverse (w : Word) : wordBits w = (List.range 16).reverse.map fun i => w.getLsbD i := rfl

@[simp] theorem length_wordBits (w : Word) : (wordBits w).length = 16 := by simp [wordBits]

/-- Bit `i` of a word's bits, first sent first. -/
theorem wordBits_getElem? (w : Word) (i : Nat) (h : i < 16) : (wordBits w)[i]? = some (w.getLsbD (15 - i)) := by
  simp [wordBits, h]

/-- The words counted down from offset `fb.length - 1` are the frame's words. -/
theorem range_reverse_map_getD (fb : List Word) :
    (List.range fb.length).reverse.map (fun k => fb.getD k 0) = frameWords fb := by
  rw [frameWords, List.map_reverse]
  congr 1
  apply List.ext_getElem (by simp)
  intro i h₁ h₂
  simp [h₂]

/-- Position `p` of a list joined from pieces of one length. -/
theorem flatMap_getElem? {α β : Type} (f : α → List β) (m : Nat) (hm : 0 < m) (hf : ∀ a, (f a).length = m)
    (l : List α) (p : Nat) : (l.flatMap f)[p]? = (l[p / m]?).bind fun a => (f a)[p % m]? := by
  induction l generalizing p with
  | nil => simp
  | cons a l ih =>
    rw [List.flatMap_cons]
    by_cases h : p < m
    · rw [List.getElem?_append_left (by rw [hf]; exact h), Nat.div_eq_of_lt h, Nat.mod_eq_of_lt h]
      simp
    · have h' : m ≤ p := Nat.le_of_not_lt h
      rw [List.getElem?_append_right (by rw [hf]; exact h'), hf, ih]
      have hd : p / m = (p - m) / m + 1 := by
        rw [Nat.div_eq_sub_div hm h']
      have hmod : p % m = (p - m) % m := Nat.mod_eq_sub_mod h'
      rw [hd, hmod, List.getElem?_cons_succ]

theorem length_flatMap_const {α β : Type} (f : α → List β) (m : Nat) (hf : ∀ a, (f a).length = m) (l : List α) :
    (l.flatMap f).length = m * l.length := by
  induction l with
  | nil => simp
  | cons a l ih =>
    rw [List.flatMap_cons, List.length_append, hf, ih, List.length_cons, Nat.mul_succ, Nat.add_comm]

theorem length_frameBits (fb : List Word) : (frameBits fb).length = 16 * fb.length := by
  rw [frameBits, length_flatMap_const wordBits 16 length_wordBits, frameWords, List.length_reverse]

/-- The levels of `SCLK` and `SDATA` after an event list. -/
def levelsAfterAll (sclk sdata : Bool) : List Event → Bool × Bool
  | [] => (sclk, sdata)
  | e :: es => levelsAfterAll (levelsAfter sclk sdata e).1 (levelsAfter sclk sdata e).2 es

/-- The bit stream of joined event lists. -/
theorem bitStream_append (sclk sdata : Bool) (es fs : List Event) :
    bitStream sclk sdata (es ++ fs) =
      bitStream sclk sdata es ++
        bitStream (levelsAfterAll sclk sdata es).1 (levelsAfterAll sclk sdata es).2 fs := by
  induction es generalizing sclk sdata with
  | nil => rfl
  | cons e es ih => simp only [List.cons_append, bitStream, levelsAfterAll, ih, List.append_assoc]

/-- Words contribute their bits. -/
theorem bitStream_words (sclk sdata : Bool) (ws : List Word) :
    bitStream sclk sdata (ws.map Event.word) = ws.flatMap wordBits := by
  induction ws with
  | nil => rfl
  | cons w ws ih => simp only [List.map_cons, bitStream, eventBits, levelsAfter, ih, List.flatMap_cons]

theorem levelsAfterAll_words (sclk sdata : Bool) (ws : List Word) :
    levelsAfterAll sclk sdata (ws.map Event.word) = (sclk, sdata) := by
  induction ws with
  | nil => rfl
  | cons w ws ih => simpa only [List.map_cons, levelsAfterAll, levelsAfter] using ih

/-- Bit cells entered with the clock low contribute one bit each, and leave the clock low. -/
theorem bitStream_cells (sdata : Bool) (bs : List Bool) :
    bitStream false sdata (bs.flatMap cellEvents) = bs := by
  induction bs generalizing sdata with
  | nil => rfl
  | cons b bs ih =>
    rw [List.flatMap_cons, bitStream_append]
    change [b] ++ bitStream false b (bs.flatMap cellEvents) = b :: bs
    rw [ih]
    rfl

theorem levelsAfterAll_cells (sdata : Bool) (bs : List Bool) :
    (levelsAfterAll false sdata (bs.flatMap cellEvents)).1 = false := by
  induction bs generalizing sdata with
  | nil => rfl
  | cons b bs ih => exact ih b

/-- The two bytes of a word carry its bits. -/
theorem byteBits_high_low (w : Word) : byteBits (highByte w) ++ byteBits (lowByte w) = wordBits w := by
  simp [byteBits, wordBits, highByte, lowByte, List.range_succ]

/-- The block of a frame contributes the frame's bits. -/
theorem frameBytes_bits (fb : List Word) : (frameBytes fb).flatMap byteBits = frameBits fb := by
  rw [frameBytes, frameBits]
  induction frameWords fb with
  | nil => rfl
  | cons w ws ih =>
    simp only [List.flatMap_cons, List.flatMap_append, List.flatMap_nil, List.append_nil, ih, byteBits_high_low]

end Sys2Proof.Machine
end

