-- ==== Sys2Proof/Laws/Transfer.lean ====
section
/-! SUPPORT. What the guard, the waits and the three strategies do, said once: with every answer given, with a number of
answers given, and what they never change. -/

namespace Sys2Proof.Machine

theorem takeGrant_of_none {s : State} (h : s.grants = none) : takeGrant s = some s := by
  simp [takeGrant, h]

theorem takeGrant_of_zero {s : State} (h : s.grants = some 0) : takeGrant s = none := by
  simp [takeGrant, h]

theorem takeGrant_of_succ {s : State} {k : Nat} (h : s.grants = some (k + 1)) :
    takeGrant s = some { s with grants := some k } := by
  simp [takeGrant, h]

/-- No answer is left exactly when none is given any more. -/
theorem takeGrant_eq_none {s : State} (h : takeGrant s = none) : s.grants = some 0 := by
  unfold takeGrant at h
  split at h <;> first | assumption | cases h

/-- An answer changes nothing but the number of answers left. -/
theorem takeGrant_eq_some {s t : State} (h : takeGrant s = some t) : t = { s with grants := t.grants } := by
  unfold takeGrant at h
  split at h <;> cases h <;> rfl

theorem transfer_of_bulk {s : State} (h : s.mode = .hardwareBulk) : transfer s = bulkTransfer (setBusy s) := by
  unfold transfer
  split <;> first | rfl | simp_all

theorem transfer_of_wordwise {s : State} (h : s.mode = .hardwareWordwise) :
    transfer s = wordTransfer (nw s.chips) (guardBegin (setBusy s)) := by
  unfold transfer
  split <;> first | rfl | simp_all

theorem transfer_of_bitbang {s : State} (h : s.mode = .softwareBitbang) :
    transfer s = settle (guardEnd (bitbangWords (nw s.chips) (guardBegin (setBusy s)))) := by
  unfold transfer
  split <;> first | rfl | simp_all

theorem guardBegin_eq (s : State) :
    guardBegin s = { s with out := s.out ++ maskEvents s.maskEn, irqMask := s.maskEn || s.irqMask } := by
  unfold guardBegin maskEvents
  cases h : s.maskEn <;> cases s <;> simp_all [emit]

theorem guardEnd_eq (s : State) :
    guardEnd s = { s with out := s.out ++ restoreEvents s.maskEn, irqMask := !s.maskEn && s.irqMask } := by
  unfold guardEnd restoreEvents
  cases h : s.maskEn <;> cases s <;> simp_all [emit]

/-- The settle delay with its end granted (44_timing_guard.md R173). -/
theorem settle_of_none {s : State} (h : s.grants = none) :
    settle s = { s with out := s.out ++ [.delay s.settleUs], busy := false } := by
  unfold settle awaitDelay
  rw [takeGrant_of_none (by simpa using h)]
  rfl

/-- The settle delay whose end does not come (43_transferer.md R159). -/
theorem settle_of_zero {s : State} (h : s.grants = some 0) :
    settle s = { s with out := s.out ++ [.delay s.settleUs], wait := .delayDone } := by
  unfold settle awaitDelay
  rw [takeGrant_of_zero (by simpa using h)]
  rfl

/-- The words from offset `n-1` down. -/
def wordsDown (s : State) (n : Nat) : List Word := (List.range n).reverse.map (readWord s)

@[simp] theorem length_wordsDown (s : State) (n : Nat) : (wordsDown s n).length = n := by simp [wordsDown]

@[simp] theorem wordsDown_zero (s : State) : wordsDown s 0 = [] := rfl

theorem wordsDown_succ (s : State) (n : Nat) : wordsDown s (n + 1) = readWord s n :: wordsDown s n := by
  simp [wordsDown, List.range_succ]

/-- The words of the whole frame buffer, counted down, are the frame (43_transferer.md R149). -/
theorem wordsDown_eq_frameWords {s : State} {n : Nat} (h : s.fb.length = n) : wordsDown s n = frameWords s.fb := by
  subst h
  exact range_reverse_map_getD s.fb

theorem wordsDown_congr {s t : State} (h : t.fb = s.fb) (n : Nat) : wordsDown t n = wordsDown s n := by
  simp [wordsDown, readWord, h]

/-- With every answer given the word loop sends every word (43_transferer.md R152). -/
theorem sendWords_of_none (n : Nat) (s : State) (h : s.grants = none) :
    sendWords n s =
      ({ s with out := s.out ++ (wordsDown s n).map .word, tp := if n = 0 then s.tp else 0 }, true) := by
  induction n generalizing s with
  | zero => simp [sendWords]
  | succ n ih =>
    rw [sendWords, takeGrant_of_none (by simpa using h)]
    dsimp only
    rw [ih _ (by simpa using h), wordsDown_succ]
    refine Prod.ext ?_ rfl
    rw [wordsDown_congr (s := s) (by simp)]
    cases n <;> simp [emit, readWord]

/-- With `k` answers given and more than `k` words to send, the loop stops at word `n-1-k`
(43_transferer.md R159). -/
theorem sendWords_of_lt (n k : Nat) (s : State) (h : s.grants = some k) (hk : k < n) :
    sendWords n s =
      ({ s with
          out := s.out ++ ((wordsDown s n).take k).map .word
          tp := BitVec.ofNat 17 (n - 1 - k)
          wait := .wordReady
          grants := some 0 }, false) := by
  induction n generalizing s k with
  | zero => omega
  | succ n ih =>
    cases k with
    | zero =>
      rw [sendWords, takeGrant_of_zero (by simpa using h)]
      cases s
      simp_all [suspend]
    | succ k =>
      rw [sendWords, takeGrant_of_succ (k := k) (by simpa using h)]
      dsimp only
      rw [ih k _ (by simp) (by omega), wordsDown_succ]
      refine Prod.ext ?_ rfl
      rw [wordsDown_congr (s := s) (by simp)]
      simp [emit, readWord, Nat.sub_sub, Nat.add_comm]

/-- With at least as many answers as words, every word is sent and the rest of the answers is left. -/
theorem sendWords_of_le (n k : Nat) (s : State) (h : s.grants = some k) (hk : n ≤ k) :
    sendWords n s =
      ({ s with
          out := s.out ++ (wordsDown s n).map .word
          tp := if n = 0 then s.tp else 0
          grants := some (k - n) }, true) := by
  induction n generalizing s k with
  | zero => cases s; simp_all [sendWords]
  | succ n ih =>
    cases k with
    | zero => omega
    | succ k =>
      rw [sendWords, takeGrant_of_succ (k := k) (by simpa using h)]
      dsimp only
      rw [ih k _ (by simp) (by omega), wordsDown_succ]
      refine Prod.ext ?_ rfl
      rw [wordsDown_congr (s := s) (by simp)]
      cases n <;> simp [emit, readWord]

/-- The bits of a word from bit `n-1` down. -/
def bitsDown (w : Word) (n : Nat) : List Bool := (List.range n).reverse.map fun i => w.getLsbD i

theorem bitsDown_succ (w : Word) (n : Nat) : bitsDown w (n + 1) = w.getLsbD n :: bitsDown w n := by
  simp [bitsDown, List.range_succ]

theorem bitsDown_sixteen (w : Word) : bitsDown w 16 = wordBits w := rfl

/-- The bit cells of a word (43_transferer.md R153, R154). -/
theorem sendBits_eq (w : Word) (n : Nat) (s : State) :
    sendBits w n s =
      { s with
        out := s.out ++ (bitsDown w n).flatMap cellEvents
        tb := if n = 0 then s.tb else 0
        sclk := if n = 0 then s.sclk else false
        sdata := if n = 0 then s.sdata else w.getLsbD 0 } := by
  induction n generalizing s with
  | zero => simp [sendBits, bitsDown]
  | succ n ih =>
    rw [sendBits, ih, bitsDown_succ]
    cases n <;> simp [bitCell, driveClk, driveData, emit, cellEvents]

/-- The bit-bang loop: every bit of every word from offset `n-1` down, waiting for nothing (43_transferer.md R153). -/
theorem bitbangWords_eq (n : Nat) (s : State) :
    bitbangWords n s =
      { s with
        out := s.out ++ ((wordsDown s n).flatMap wordBits).flatMap cellEvents
        tp := if n = 0 then s.tp else 0
        tb := if n = 0 then s.tb else 0
        sclk := if n = 0 then s.sclk else false
        sdata := if n = 0 then s.sdata else (readWord s 0).getLsbD 0 } := by
  induction n generalizing s with
  | zero => simp [bitbangWords]
  | succ n ih =>
    rw [bitbangWords, ih, sendBits_eq, wordsDown_succ]
    rw [wordsDown_congr (s := s) (by rfl)]
    cases n <;> simp [readWord, bitsDown_sixteen]

end Sys2Proof.Machine
end

