-- ==== Sys2Proof/Laws/Frame.lean ====
section
/-! SUPPORT. What the shared operations of the Transferer leave alone, and what teardown, the configuration operations,
the channel accesses and the command port do, said once each. -/

namespace Sys2Proof.Machine

/-- Nothing but the state of a transfer differs: the staging buffer, the sequencer, the output levels, the trace, the
answers and the free values. `FB`, `FC`, `XSTATE`, `MODE`, the configuration registers, the chip count and the offered
commands are the same. -/
def TransferFrame (s t : State) : Prop :=
  t = { s with
    sb := t.sb, busy := t.busy, tp := t.tp, tb := t.tb, irqMask := t.irqMask, sclk := t.sclk, sdata := t.sdata,
    out := t.out, wait := t.wait, grants := t.grants, freeCtr := t.freeCtr }

theorem TransferFrame.refl (s : State) : TransferFrame s s := rfl

theorem TransferFrame.trans {s t u : State} (h₁ : TransferFrame s t) (h₂ : TransferFrame t u) : TransferFrame s u := by
  unfold TransferFrame at *
  rw [h₁] at h₂
  exact h₂

theorem takeGrant_frame {s t : State} (h : takeGrant s = some t) : TransferFrame s t := by
  rw [takeGrant_eq_some h]
  rfl

theorem guardBegin_frame (s : State) : TransferFrame s (guardBegin s) := by rw [guardBegin_eq]; rfl

theorem guardEnd_frame (s : State) : TransferFrame s (guardEnd s) := by rw [guardEnd_eq]; rfl

theorem awaitDelay_frame (s : State) : TransferFrame s (awaitDelay s) := by
  unfold awaitDelay
  split
  · exact (takeGrant_frame (by assumption)).trans rfl
  · rfl

theorem settle_frame (s : State) : TransferFrame s (settle s) :=
  TransferFrame.trans (t := emit (.delay s.settleUs) s) rfl (awaitDelay_frame _)

theorem awaitBlock_frame (s : State) : TransferFrame s (awaitBlock s) := by
  unfold awaitBlock
  split
  · exact (takeGrant_frame (by assumption)).trans (settle_frame _)
  · rfl

theorem offerBlock_frame (s : State) : TransferFrame s (offerBlock s) := by
  unfold offerBlock
  split
  · next t h =>
    exact (takeGrant_frame h).trans
      (TransferFrame.trans (t := staleStaging (emit (.block t.sb) t)) rfl (awaitBlock_frame _))
  · rfl

theorem sendWords_frame (n : Nat) (s : State) : TransferFrame s (sendWords n s).1 := by
  induction n generalizing s with
  | zero => rfl
  | succ n ih =>
    rw [sendWords]
    split
    · next t h =>
      exact TransferFrame.trans (t := { s with tp := BitVec.ofNat 17 n }) rfl
        ((takeGrant_frame h).trans (TransferFrame.trans (t := emit (.word (readWord t n)) t) rfl (ih _)))
    · rfl

theorem wordTransfer_frame (n : Nat) (s : State) : TransferFrame s (wordTransfer n s) := by
  have h := sendWords_frame n s
  unfold wordTransfer
  split
  · next t heq =>
    rw [heq] at h
    exact h.trans ((guardEnd_frame t).trans (settle_frame _))
  · next t heq =>
    rw [heq] at h
    exact h

theorem bitbangWords_frame (n : Nat) (s : State) : TransferFrame s (bitbangWords n s) := by
  rw [bitbangWords_eq]
  rfl

/-- A transfer changes only the state of a transfer (43_transferer.md R147, R157). -/
theorem transfer_frame (s : State) : TransferFrame s (transfer s) := by
  have hb : TransferFrame s (setBusy s) := rfl
  unfold transfer
  split
  · exact hb.trans (TransferFrame.trans (t := fillStaging (setBusy s)) rfl (offerBlock_frame _))
  · exact hb.trans ((guardBegin_frame _).trans (wordTransfer_frame _ _))
  · exact hb.trans ((guardBegin_frame _).trans
      ((bitbangWords_frame _ _).trans ((guardEnd_frame _).trans (settle_frame _))))

/-- So does a suspended transfer that goes on. -/
theorem resume_frame (s : State) : TransferFrame s (resume s) := by
  unfold resume
  split
  · exact wordTransfer_frame _ _
  · exact offerBlock_frame _
  · exact awaitBlock_frame _
  · exact awaitDelay_frame _

theorem wf_awaitDelay (s : State) (h : Memory.wf s = true) : Memory.wf (awaitDelay s) = true := by
  unfold awaitDelay
  split
  · next t ht =>
    rw [takeGrant_eq_some ht]
    exact h
  · exact h

theorem wf_settle (s : State) (h : Memory.wf s = true) : Memory.wf (settle s) = true :=
  wf_awaitDelay _ h

theorem wf_awaitBlock (s : State) (h : Memory.wf s = true) : Memory.wf (awaitBlock s) = true := by
  unfold awaitBlock
  split
  · next t ht =>
    rw [takeGrant_eq_some ht]
    exact wf_settle _ h
  · exact h

theorem wf_offerBlock (s : State) (h : Memory.wf s = true) : Memory.wf (offerBlock s) = true := by
  unfold offerBlock
  split
  · next t ht =>
    rw [takeGrant_eq_some ht]
    exact wf_awaitBlock _ (wf_staleStaging _ h)
  · exact h

theorem sendWords_sb (n : Nat) (s : State) : (sendWords n s).1.sb = s.sb := by
  induction n generalizing s with
  | zero => rfl
  | succ n ih =>
    rw [sendWords]
    split
    · next t h =>
      rw [ih, emit_sb, takeGrant_eq_some h]
    · rfl

theorem wf_wordTransfer (n : Nat) (s : State) (h : Memory.wf s = true) : Memory.wf (wordTransfer n s) = true := by
  have hf := sendWords_frame n s
  have hs := sendWords_sb n s
  have hwf : Memory.wf (sendWords n s).1 = true := by
    rw [wf_iff] at h ⊢
    rw [hs, hf]
    exact h
  unfold wordTransfer
  split
  · next t heq =>
    rw [heq] at hwf
    exact wf_settle _ (by rw [guardEnd_eq]; exact hwf)
  · next t heq =>
    rw [heq] at hwf
    exact hwf

/-- A transfer keeps the storage's form. -/
theorem wf_transfer (s : State) (h : Memory.wf s = true) : Memory.wf (transfer s) = true := by
  unfold transfer
  split
  · exact wf_offerBlock _ (wf_fillStaging _ h)
  · exact wf_wordTransfer _ _ (by rw [guardBegin_eq]; exact h)
  · exact wf_settle _ (by rw [guardEnd_eq, bitbangWords_eq, guardBegin_eq]; exact h)

/-- So does a suspended transfer that goes on. -/
theorem wf_resume (s : State) (h : Memory.wf s = true) : Memory.wf (resume s) = true := by
  unfold resume
  split
  · exact wf_wordTransfer _ _ h
  · exact wf_offerBlock _ h
  · exact wf_awaitBlock _ h
  · exact wf_awaitDelay _ h

/-- The event of a teardown, where something is configured (43_transferer.md R145). -/
def teardownEvents (s : State) : List Event := if s.xstate = .configured then [.teardown s.mode] else []

/-- Teardown: the event, and free output levels after bit-bang; nothing else (43_transferer.md R145). -/
theorem teardown_spec (s : State) :
    teardown s = { s with
      out := s.out ++ teardownEvents s, sclk := (teardown s).sclk, sdata := (teardown s).sdata,
      freeCtr := (teardown s).freeCtr } ∧
    (¬(s.xstate = .configured ∧ s.mode = .softwareBitbang) →
      (teardown s).sclk = s.sclk ∧ (teardown s).sdata = s.sdata ∧ (teardown s).freeCtr = s.freeCtr) := by
  unfold teardown teardownEvents
  cases hx : s.xstate <;> cases hm : s.mode <;> cases s <;> simp_all [emit, releaseLevels]

/-- Writing a channel in range writes its mapped word. -/
theorem writeChannel_of_lt {idx : Nat} {s : State} (h : idx < 12 * s.chips) (v : Word) :
    writeChannel idx v s = writeWord (14 * (idx / 12) + idx % 12) v s := by
  simp [writeChannel, mapChannel, nch, h]

/-- Writing a channel out of range does nothing. -/
theorem writeChannel_of_le {idx : Nat} {s : State} (h : 12 * s.chips ≤ idx) (v : Word) : writeChannel idx v s = s := by
  have : ¬idx < 12 * s.chips := by omega
  simp [writeChannel, mapChannel, nch, this]

/-- What a channel reads as. -/
theorem readChannel_eq (s : State) (idx : Nat) :
    readChannel s idx = if idx < 12 * s.chips then readWord s (14 * (idx / 12) + idx % 12) else 0 := by
  unfold readChannel mapChannel nch
  by_cases h : idx < 12 * s.chips <;> simp [h]

/-- The command port takes the oldest offered word when the block is ready (10_state.md R26). -/
theorem takeCommand_of_cons {s : State} {c : CmdWord} {rest : List CmdWord} (hb : s.busy = false)
    (h : s.cmds = c :: rest) : takeCommand s = some (c, { s with cmds := rest }) := by
  simp [takeCommand, h, cmdReady, hb]

theorem takeCommand_of_nil {s : State} (h : s.cmds = []) : takeCommand s = none := by
  simp [takeCommand, h]

theorem step_of_busy {s : State} (hc : chipsOk s.chips = true) (hb : s.busy = true) : step s = .next (resume s) := by
  simp [step, hc, hb]

theorem step_of_idle {s : State} (hc : chipsOk s.chips = true) (hb : s.busy = false) (h : s.cmds = []) :
    step s = .next s := by
  simp [step, hc, hb, takeCommand_of_nil h]

end Sys2Proof.Machine
end

