-- ==== Sys2Proof/Laws/Exec.lean ====
section
/-! SUPPORT. What no command changes: the chip count, the offered commands, the sizes of the storage; and the
configuration operations, said once. -/

namespace Sys2Proof.Machine

/-- The serial peripheral's configuration (43_transferer.md R142, R143). -/
theorem configurePeripheral_eq (m : Mode) (hz : BitVec 32) (us : Word) (e : Bool) (s : State) :
    configurePeripheral m hz us e s =
      { s with
        spiHz := hz, settleUs := us, maskEn := e, mode := m, xstate := .configured,
        out := s.out ++ teardownEvents s ++ [.perCfg hz],
        sclk := (teardown s).sclk, sdata := (teardown s).sdata, freeCtr := (teardown s).freeCtr } := by
  unfold configurePeripheral
  rw [(teardown_spec s).1]
  rfl

/-- The pins' configuration (43_transferer.md R144). -/
theorem configurePins_eq (c d us : Word) (e : Bool) (s : State) :
    configurePins c d us e s =
      { s with
        clkPin := c, dataPin := d, settleUs := us, maskEn := e, mode := .softwareBitbang, xstate := .configured,
        out := s.out ++ teardownEvents s ++ [.pinCfg c d, .clk false, .data false],
        sclk := false, sdata := false, freeCtr := (teardown s).freeCtr } := by
  unfold configurePins
  rw [(teardown_spec s).1]
  simp [driveData, driveClk, emit, setConfigured]

/-- Writing a channel changes the frame buffer only, and not its length. -/
theorem writeChannel_frame (idx : Nat) (v : Word) (s : State) :
    writeChannel idx v s = { s with fb := (writeChannel idx v s).fb } ∧
      (writeChannel idx v s).fb.length = s.fb.length := by
  unfold writeChannel
  split
  · exact ⟨rfl, by simp⟩
  · exact ⟨rfl, rfl⟩

/-- No command changes the chip count, takes an offered command or changes the length of the frame buffer. -/
theorem exec_keeps {i : Instr} {s t : State} (h : exec i s = .next t) :
    t.chips = s.chips ∧ t.cmds = s.cmds ∧ t.fb.length = s.fb.length := by
  cases i <;>
    simp only [exec, execSetch, execGetch, execSetrgb, execSetrgball, execSetbc, execSetbcall, execSettmgrst, execReset,
      execCfgbulk, execCfgword, execCfgbb, execEndcfg, execWrite, configurePeripheral_eq, configurePins_eq] at h
  case setch idx val =>
    cases h
    rw [(writeChannel_frame _ _ _).1]
    exact ⟨rfl, rfl, (writeChannel_frame _ _ _).2⟩
  case setrgb => split at h <;> cases h <;> simp
  case setbc => split at h <;> cases h <;> simp
  case endcfg =>
    split at h <;> cases h
    · rw [(teardown_spec s).1]
      exact ⟨rfl, rfl, rfl⟩
    · exact ⟨rfl, rfl, rfl⟩
    · exact ⟨rfl, rfl, rfl⟩
  case write =>
    split at h <;> cases h
    · rw [transfer_frame s]
      exact ⟨rfl, rfl, rfl⟩
    · exact ⟨rfl, rfl, rfl⟩
    · exact ⟨rfl, rfl, rfl⟩
  all_goals
    cases h
    simp

/-- Every command keeps the storage's form. -/
theorem exec_keeps_wf {i : Instr} {s t : State} (hwf : Memory.wf s = true) (h : exec i s = .next t) :
    Memory.wf t = true := by
  have hk := exec_keeps h
  have hsb : t.sb = s.sb ∨ Memory.wf t = true := by
    cases i <;>
      simp only [exec, execSetch, execGetch, execSetrgb, execSetrgball, execSetbc, execSetbcall, execSettmgrst, execReset,
        execCfgbulk, execCfgword, execCfgbb, execEndcfg, execWrite, configurePeripheral_eq, configurePins_eq] at h
    case setch idx val =>
      cases h
      rw [(writeChannel_frame _ _ _).1]
      exact .inl rfl
    case setrgb => split at h <;> cases h <;> exact .inl rfl
    case setbc => split at h <;> cases h <;> exact .inl rfl
    case endcfg =>
      split at h <;> cases h
      · rw [(teardown_spec s).1]
        exact .inl rfl
      · exact .inl rfl
      · exact .inl rfl
    case write =>
      split at h <;> cases h
      · exact .inr (wf_transfer s hwf)
      · exact .inl rfl
      · exact .inl rfl
    all_goals
      cases h
      exact .inl rfl
  rcases hsb with hsb | hsb
  · rw [wf_iff] at hwf ⊢
    rw [hk.1, hk.2.2, hsb]
    exact hwf
  · exact hsb

end Sys2Proof.Machine
end

