-- ==== Sys2Proof/Laws/Operands.lean ====
section
/-! SUPPORT. When the operand forms select something, and what (40_index_mapper.md, 41_command_word_builder.md R101). -/

namespace Sys2Proof.Machine

theorem mapChannel_eq_some {c i o : Nat} : mapChannel c i = some o ↔ i < 12 * c ∧ o = 14 * (i / 12) + i % 12 := by
  unfold mapChannel nch
  by_cases h : i < 12 * c
  · rw [if_pos h]
    constructor
    · intro e
      cases e
      exact ⟨h, rfl⟩
    · rintro ⟨_, rfl⟩
      rfl
  · rw [if_neg h]
    constructor
    · intro e
      cases e
    · exact fun e => absurd e.1 h

theorem mapChannel_eq_none {c i : Nat} : mapChannel c i = none ↔ 12 * c ≤ i := by
  unfold mapChannel nch
  by_cases h : i < 12 * c
  · rw [if_pos h]
    constructor
    · intro e
      cases e
    · omega
  · rw [if_neg h]
    exact ⟨fun _ => by omega, fun _ => rfl⟩

theorem ledBase_eq_some {c i o : Nat} : ledBase c i = some o ↔ i < 4 * c ∧ o = 14 * (i / 4) + 3 * (i % 4) := by
  unfold ledBase nled
  by_cases h : i < 4 * c
  · rw [if_pos h]
    constructor
    · intro e
      cases e
      exact ⟨h, rfl⟩
    · rintro ⟨_, rfl⟩
      rfl
  · rw [if_neg h]
    constructor
    · intro e
      cases e
    · exact fun e => absurd e.1 h

theorem ledBase_eq_none {c i : Nat} : ledBase c i = none ↔ 4 * c ≤ i := by
  unfold ledBase nled
  by_cases h : i < 4 * c
  · rw [if_pos h]
    constructor
    · intro e
      cases e
    · omega
  · rw [if_neg h]
    exact ⟨fun _ => by omega, fun _ => rfl⟩

theorem ctlBase_of_lt {c i : Nat} (h : i < c) : ctlBase c i = some (14 * i + 12) := by simp [ctlBase, h]

theorem ctlBase_of_le {c i : Nat} (h : c ≤ i) : ctlBase c i = none := by
  have : ¬i < c := by omega
  simp [ctlBase, this]

end Sys2Proof.Machine
end

