-- ==== Sys2Proof/Laws/PerInstr.lean ====
section
/-! SUPPORT. A fact of every command as syntax, one lemma per command: its word carries its opcode, and the opcode map
lists that opcode (30_encoding.md R67, R69). -/

namespace Sys2Proof.Laws

/-- The word of a command carries the command's opcode, and the opcode map lists it. -/
def Opcode.Statement (i : Instr) : Prop :=
  opField (encode i) = i.opcode ∧ definedOpcode i.opcode = true

theorem Opcode.setch (idx val : Word) : Opcode.Statement (.setch idx val) :=
  ⟨opField_formatK _ _ _ _ _, rfl⟩

theorem Opcode.getch (idx : Word) : Opcode.Statement (.getch idx) :=
  ⟨opField_formatK _ _ _ _ _, rfl⟩

theorem Opcode.setrgb (led r g b : Word) : Opcode.Statement (.setrgb led r g b) :=
  ⟨opField_formatK _ _ _ _ _, rfl⟩

theorem Opcode.setrgball (r g b : Word) : Opcode.Statement (.setrgball r g b) :=
  ⟨opField_formatK _ _ _ _ _, rfl⟩

theorem Opcode.setbc (chipIdx bcr bcg bcb : Word) : Opcode.Statement (.setbc chipIdx bcr bcg bcb) :=
  ⟨opField_formatK _ _ _ _ _, rfl⟩

theorem Opcode.setbcall (bcr bcg bcb : Word) : Opcode.Statement (.setbcall bcr bcg bcb) :=
  ⟨opField_formatK _ _ _ _ _, rfl⟩

theorem Opcode.settmgrst (val : Word) : Opcode.Statement (.settmgrst val) :=
  ⟨opField_formatK _ _ _ _ _, rfl⟩

theorem Opcode.reset : Opcode.Statement .reset :=
  ⟨opField_formatK _ _ _ _ _, rfl⟩

theorem Opcode.cfgbulk (hz : BitVec 32) (settleUs : Word) (maskEn : Bool) :
    Opcode.Statement (.cfgbulk hz settleUs maskEn) :=
  ⟨opField_formatK _ _ _ _ _, rfl⟩

theorem Opcode.cfgword (hz : BitVec 32) (settleUs : Word) (maskEn : Bool) :
    Opcode.Statement (.cfgword hz settleUs maskEn) :=
  ⟨opField_formatK _ _ _ _ _, rfl⟩

theorem Opcode.cfgbb (clkPin dataPin settleUs : Word) (maskEn : Bool) :
    Opcode.Statement (.cfgbb clkPin dataPin settleUs maskEn) :=
  ⟨opField_formatK _ _ _ _ _, rfl⟩

theorem Opcode.endcfg : Opcode.Statement .endcfg :=
  ⟨opField_formatK _ _ _ _ _, rfl⟩

theorem Opcode.write : Opcode.Statement .write :=
  ⟨opField_formatK _ _ _ _ _, rfl⟩

end Sys2Proof.Laws
end

