-- ==== Sys2Proof/Laws/Safety.lean ====
section
/-! SUPPORT. The event list of a WRITE, case by case, and what a suspended transfer has emitted of it. -/

namespace Sys2Proof.Machine.Safety

theorem transferEvents_of_bulk {s : State} (h : s.mode = .hardwareBulk) :
    transferEvents s = [.block (frameBytes s.fb), .delay s.settleUs] := by
  unfold transferEvents
  split <;> first | rfl | simp_all

theorem transferEvents_of_wordwise {s : State} (h : s.mode = .hardwareWordwise) :
    transferEvents s =
      maskEvents s.maskEn ++ (frameWords s.fb).map .word ++ restoreEvents s.maskEn ++ [.delay s.settleUs] := by
  unfold transferEvents
  split <;> first | rfl | simp_all

theorem transferEvents_of_bitbang {s : State} (h : s.mode = .softwareBitbang) :
    transferEvents s =
      maskEvents s.maskEn ++ (frameBits s.fb).flatMap cellEvents ++ restoreEvents s.maskEn ++ [.delay s.settleUs] := by
  unfold transferEvents
  split <;> first | rfl | simp_all

/-- The event list rests on the frame buffer, the strategy, the mask flag and the settle delay alone. -/
theorem transferEvents_congr {s t : State} (hfb : t.fb = s.fb) (hmode : t.mode = s.mode) (hmask : t.maskEn = s.maskEn)
    (hsettle : t.settleUs = s.settleUs) : transferEvents t = transferEvents s := by
  unfold transferEvents
  rw [hfb, hmode, hmask, hsettle]

theorem sentEvents_of_wordReady {s : State} (h : s.wait = .wordReady) :
    sentEvents s =
      maskEvents s.maskEn ++ ((frameWords s.fb).take (nw s.chips - 1 - s.tp.toNat)).map .word := by
  unfold sentEvents
  split <;> first | rfl | simp_all

theorem sentEvents_of_blockReady {s : State} (h : s.wait = .blockReady) : sentEvents s = [] := by
  unfold sentEvents
  split <;> first | rfl | simp_all

theorem sentEvents_of_blockDone {s : State} (h : s.wait = .blockDone) :
    sentEvents s = [.block (frameBytes s.fb)] := by
  unfold sentEvents
  split <;> first | rfl | simp_all

theorem sentEvents_of_delayDone {s : State} (h : s.wait = .delayDone) : sentEvents s = transferEvents s := by
  unfold sentEvents
  split <;> first | rfl | simp_all

/-- The words still to be sent from offset `n-1` down are the rest of the frame. -/
theorem wordsDown_eq_drop {s : State} {n : Nat} (h : n ≤ s.fb.length) :
    wordsDown s n = (frameWords s.fb).drop (s.fb.length - n) := by
  rw [← wordsDown_eq_frameWords rfl, wordsDown, wordsDown, ← List.map_drop]
  congr 1
  apply List.ext_getElem
  · simp
    omega
  · intro i h₁ h₂
    simp
    simp at h₁
    omega

end Sys2Proof.Machine.Safety
end

