-- ==== Sys2Proof/Tests/Slice0.lean ====
section
/-! SUPPORT. Tests and witnesses. The expected values of the tests are the spec's own: the words, states and events of
95_test_vectors.md (sections 1 and 2, given before each group), never the model's answer. A witness theorem shows that
the hypotheses of a statement can be met together, at the ends of their ranges. -/

namespace Sys2Proof.Tests

open Sys2Proof Sys2Proof.Machine Sys2Proof.Machine.Safety

/-! ### Decoding: the words of 95_test_vectors.md 2.7, written out there from the encodings of 30_encoding.md R69 -/

theorem test_decode_setch : decode 0x010017123400000000 = .instr (.setch 23 0x1234) := by decide
theorem test_decode_getch : decode 0x020017000000000000 = .instr (.getch 23) := by decide
theorem test_decode_setrgb : decode 0x030000100020003000 = .instr (.setrgb 0 0x1000 0x2000 0x3000) := by decide
theorem test_decode_setrgball : decode 0x040000000100020003 = .instr (.setrgball 1 2 3) := by decide
theorem test_decode_setbc : decode 0x050001008500FF0000 = .instr (.setbc 1 0x85 0xFF 0) := by decide
theorem test_decode_setbcall : decode 0x060000000500060007 = .instr (.setbcall 5 6 7) := by decide
theorem test_decode_settmgrst : decode 0x070001000000000000 = .instr (.settmgrst 1) := by decide
theorem test_decode_reset : decode 0x080000000000000000 = .instr .reset := by decide
theorem test_decode_cfgbulk : decode 0x100098968000030000 = .instr (.cfgbulk 10000000 3 false) := by decide
theorem test_decode_cfgword : decode 0x11000F4240000A0001 = .instr (.cfgword 1000000 10 true) := by decide
theorem test_decode_cfgbb : decode 0x12000D000B00030001 = .instr (.cfgbb 13 11 3 true) := by decide
theorem test_decode_end : decode 0x130000000000000000 = .instr .endcfg := by decide
theorem test_decode_write : decode 0x140000000000000000 = .instr .write := by decide

/-- The two reserved words of 95_test_vectors.md 2.7, and the ends of the reserved ranges of 2.4. -/
theorem test_decode_reserved :
    decode 0x000000000000000000 = .reserved 0x00 ∧ decode 0xFFFFFFFFFFFFFFFFFF = .reserved 0xFF ∧
      decode 0x090000000000000000 = .reserved 0x09 ∧ decode 0x0F0000000000000000 = .reserved 0x0F ∧
      decode 0x150000000000000000 = .reserved 0x15 := by
  decide

/-- Slots a command does not use, and the bits `z[15:1]` of a mask flag, are ignored (30_encoding.md R68). -/
theorem test_decode_ignores_unused_slots :
    decode 0x020017FFFFFFFFFFFF = .instr (.getch 23) ∧ decode 0x08FFFFFFFFFFFFFFFF = .instr .reset ∧
      decode 0x11000F4240000AFFFE = .instr (.cfgword 1000000 10 false) := by
  decide

/-- The other way round: the same words from their commands (95_test_vectors.md 2.7). -/
theorem test_encode :
    encode (.setch 0 0xFFFF) = 0x010000FFFF00000000 ∧ encode (.setbc 0 10 20 30) = 0x050000000A0014001E ∧
      encode (.setrgball 1 2 3) = 0x040000000100020003 ∧ encode (.cfgword 1000000 10 true) = 0x11000F4240000A0001 ∧
      encode (.cfgbb 13 11 3 true) = 0x12000D000B00030001 := by
  decide

theorem test_decode_table_word :
    decodeTableWord 72 0x010017123400000000 = some (.setch 23 0x1234) ∧
      decodeTableWord 72 0x150000000000000000 = none := by
  decide

/-! ### Ill-formed words, one for each check of `wellFormedWord` (30_encoding.md R70, R72) -/

theorem test_wellFormedWord_accepts : wellFormedWord 0x11000F4240000A0001 = true := by decide
theorem test_wellFormedWord_refuses_reserved_opcode : wellFormedWord 0x000000000000000000 = false := by decide
theorem test_wellFormedWord_refuses_unused_slot : wellFormedWord 0x070001000100000000 = false := by decide
theorem test_wellFormedWord_refuses_high_mask_bits : wellFormedWord 0x11000F4240000A0003 = false := by decide

/-! ### Small states -/

/-- The next state, where there is one. -/
def nextOf : Host.Outcome State Fault Refusal → Option State
  | .next s => some s
  | .fault _ => none
  | .refused _ => none

/-- A block of one chip right after construction. -/
def one : State := State.construct 1 false

/-- A block of two chips right after construction. -/
def two : State := State.construct 2 false

/-- One chip with the frame buffer of 95_test_vectors.md 2.5. -/
def lit : State := { one with fb := List.replicate 12 0 ++ [0xC101, 0x9640] }

/-- A state configured with a strategy, a mask flag and a number of answers; `SETTLE_US = 10`. -/
def ready (m : Mode) (maskEn : Bool) (grants : Option Nat) (s : State) : State :=
  { s with xstate := .configured, mode := m, settleUs := 10, maskEn := maskEn, grants := grants }

/-- One word after another from offset 0 up. -/
def fbOf (o : Option State) : Option (List Word) := o.map State.fb

/-- The trace of the next state. -/
def outOf (o : Option State) : Option (List Event) := o.map State.out

/-! ### Channel operations (95_test_vectors.md 2.3, S3) -/

theorem test_setch_skips_the_control_word :
    fbOf (nextOf (exec (.setch 12 0x8000) two)) =
      some (List.replicate 14 0 ++ [0x8000] ++ List.replicate 13 0) := by decide
theorem test_setch_out_of_range : nextOf (exec (.setch 12 0xBEEF) one) = some one := by decide
theorem test_getch_reads_the_mapped_word :
    outOf (nextOf (exec (.getch 23) { two with fb := List.replicate 25 0 ++ [0x1234, 0, 0] })) = some [.rsp 0x1234] := by
  decide
theorem test_getch_out_of_range :
    outOf (nextOf (exec (.getch 65535) { two with fb := List.replicate 28 0x5555 })) = some [.rsp 0] := by decide
theorem test_setrgb_second_chip :
    fbOf (nextOf (exec (.setrgb 4 7 8 9) two)) =
      some (List.replicate 14 0 ++ [7, 8, 9] ++ List.replicate 11 0) := by decide
theorem test_setrgb_index_does_not_wrap : nextOf (exec (.setrgb 21846 7 8 9) one) = some one := by decide
theorem test_setrgball :
    fbOf (nextOf (exec (.setrgball 1 2 3) lit)) = some [1, 2, 3, 1, 2, 3, 1, 2, 3, 1, 2, 3, 0xC101, 0x9640] := by decide
theorem test_reset_keeps_fc :
    fbOf (nextOf (exec .reset { one with fc := 0x16, fb := List.replicate 14 0xAAAA })) =
      some (List.replicate 12 0 ++ [0xFFFF, 0x96DF]) := by decide
theorem test_reset_after_construction :
    fbOf (nextOf (exec .reset one)) = some (List.replicate 12 0 ++ [0xFFFF, 0x965F]) := by decide

/-! ### IndexMapper (95_test_vectors.md 2.1) -/

theorem test_map :
    mapChannel 1 11 = some 11 ∧ mapChannel 1 12 = none ∧ mapChannel 2 12 = some 14 ∧ mapChannel 2 23 = some 25 ∧
      mapChannel 3 35 = some 39 ∧ mapChannel 5461 65531 = some 76451 ∧ mapChannel 5461 65532 = none ∧
      mapChannel 4681 56174 = none := by
  decide

/-! ### CommandWordBuilder (95_test_vectors.md 2.2, S4, S7) -/

theorem test_compose :
    composeCtl 0x12 1 2 3 = 0x9640C101 ∧ composeCtl 0x16 10 20 30 = 0x96C78A0A ∧
      composeCtl 0x12 0x85 0xFF 0 = 0x96403F85 ∧ composeCtl 0x12 0xFFFF 0xFFFF 0xFFFF = 0x965FFFFF ∧
      composeCtl 0x16 0 0 0 = 0x96C00000 := by
  decide
theorem test_setbc_scenario :
    fbOf (nextOf (exec (.setbc 0 10 20 30) { one with fc := 0x16 })) =
      some (List.replicate 12 0 ++ [0x8A0A, 0x96C7]) := by decide
theorem test_setbc_truncates :
    fbOf (nextOf (exec (.setbc 0 128 255 0x17F) one)) = some (List.replicate 12 0 ++ [0xFF80, 0x965F]) := by decide
theorem test_setbcall :
    fbOf (nextOf (exec (.setbcall 1 2 3) two)) =
      some (List.replicate 12 0 ++ [0xC101, 0x9640] ++ List.replicate 12 0 ++ [0xC101, 0x9640]) := by decide
theorem test_settmgrst_any_nonzero_slot_is_true :
    (nextOf (exec (.settmgrst 0x8000) lit)).map (fun t => (t.fc, t.fb.drop 12)) = some (0x16, [0xFFFF, 0x96DF]) := by
  decide
theorem test_settmgrst_false :
    (nextOf (exec (.settmgrst 0) { lit with fc := 0x16 })).map (fun t => (t.fc, t.fb.drop 12)) =
      some (0x12, [0xFFFF, 0x965F]) := by
  decide

/-! ### The Transferer's state machine (95_test_vectors.md 2.4) -/

theorem test_cfgword_from_uninitialized :
    (nextOf (exec (.cfgword 1000000 10 true) one)).map (fun t => (t.xstate, t.mode, t.settleUs, t.maskEn, t.out)) =
      some (.configured, .hardwareWordwise, 10, true, [.perCfg 1000000]) := by decide
theorem test_cfgbulk_reconfigures :
    (nextOf (exec (.cfgbulk 1000000 10 false) (ready .hardwareWordwise true none one))).map
        (fun t => (t.xstate, t.mode, t.maskEn, t.spiHz, t.out)) =
      some (.configured, .hardwareBulk, false, 1000000, [.teardown .hardwareWordwise, .perCfg 1000000]) := by decide
theorem test_cfgbb_after_bulk :
    (nextOf (exec (.cfgbb 13 11 3 true) (ready .hardwareBulk false none one))).map
        (fun t => (t.mode, t.clkPin, t.dataPin, t.out)) =
      some (.softwareBitbang, 13, 11, [.teardown .hardwareBulk, .pinCfg 13 11, .clk false, .data false]) := by decide
theorem test_cfgbb_after_end :
    outOf (nextOf (exec (.cfgbb 13 11 3 false) { one with xstate := .ended })) =
      some [.pinCfg 13 11, .clk false, .data false] := by decide
theorem test_end_of_bitbang :
    (nextOf (exec .endcfg (ready .softwareBitbang true none one))).map (fun t => (t.xstate, t.mode, t.out)) =
      some (.ended, .softwareBitbang, [.teardown .softwareBitbang]) := by decide
theorem test_end_unconfigured : nextOf (exec .endcfg one) = some one := by decide
theorem test_write_unconfigured : nextOf (exec .write one) = some one := by decide

/-! ### The transfer strategies (95_test_vectors.md 2.5) -/

theorem test_write_wordwise_masked :
    outOf (nextOf (exec .write (ready .hardwareWordwise true none lit))) =
      some ([.irqMask, .word 0x9640, .word 0xC101] ++ List.replicate 12 (.word 0) ++ [.irqRestore, .delay 10]) := by
  decide
theorem test_write_bulk :
    outOf (nextOf (exec .write (ready .hardwareBulk true none lit))) =
      some [.block ([0x96, 0x40, 0xC1, 0x01] ++ List.replicate 24 0), .delay 10] := by decide
/-- The first eight bit cells, byte `0x96` (95_test_vectors.md 2.5): those of the last word, 0x9640. -/
theorem test_bit_cells :
    (sendBits 0x9640 16 one).out.take 24 =
      [.data true, .clk true, .clk false, .data false, .clk true, .clk false, .data false, .clk true, .clk false,
        .data true, .clk true, .clk false, .data false, .clk true, .clk false, .data true, .clk true, .clk false,
        .data true, .clk true, .clk false, .data false, .clk true, .clk false] := by decide
/-- The frame's bytes and first bits (95_test_vectors.md 2.5). -/
theorem test_frame :
    frameBytes lit.fb = [0x96, 0x40, 0xC1, 0x01] ++ List.replicate 24 0 ∧
      (frameBits lit.fb).take 16 =
        [true, false, false, true, false, true, true, false, false, true, false, false, false, false, false, false] := by
  decide
/-- A peripheral that accepts three words only (43_transferer.md R159). -/
theorem test_write_wordwise_waits :
    (nextOf (exec .write (ready .hardwareWordwise true (some 3) lit))).map
        (fun t => (t.out, t.busy, t.tp, t.irqMask)) =
      some ([.irqMask, .word 0x9640, .word 0xC101, .word 0], true, 10, true) := by decide
/-- The required settle delay (95_test_vectors.md 2.5, last paragraph). -/
theorem test_settle_bound :
    settleSufficient 10000000 3 = true ∧ settleSufficient 10000000 2 = false ∧ settleSufficient 1000000 10 = true ∧
      settleSufficient 1000000 9 = false ∧ settleSufficient 100000 82 = true ∧ settleSufficient 100000 81 = false := by
  decide

/-! ### The step -/

theorem test_step_runs_a_word :
    (nextOf (step (State.reset.withFetchWord 72 0x01000BBEEF00000000))).map (fun t => (t.fb[11]?, t.cmds)) =
      some (some 0xBEEF, []) := by decide
theorem test_step_reserved :
    nextOf (step (State.reset.withFetchWord 72 0xFFFFFFFFFFFFFFFFFF)) = some State.reset := by decide
/-- What 60_exceptions.md R181 lists as silently ignored, and as truncated. -/
theorem test_ignored_and_truncated :
    ignored one (.setch 12 0xAAAA) = true ∧ ignored one (.setch 11 0xAAAA) = false ∧ ignored one (.setrgb 4 7 8 9) = true ∧
      ignored one (.setbc 1 1 2 3) = true ∧ ignored one .write = true ∧ ignored one .endcfg = true ∧
      ignored (ready .hardwareBulk false none one) .write = false ∧ truncated (.setbc 0 128 0 0) = true ∧
      truncated (.setbcall 127 127 127) = false := by
  decide

/-! ### Witnesses: the hypotheses of the statements can be met, at the ends of their ranges -/

/-- One command word offered ahead of another. -/
def offered (c : CmdWord) (s : State) : State := { s with cmds := [c, 0x140000000000000000] }

/-- One chip, suspended inside the critical section of a word-wise transfer, for its last word. -/
def suspended : State :=
  { ready .hardwareWordwise true (some 0) lit with
    busy := true, irqMask := true, tp := 0, wait := .wordReady,
    out := [.irqMask, .word 0x9640, .word 0xC101] ++ List.replicate 11 (.word 0) }

/-- One chip, suspended in a bulk transfer before its block is accepted. -/
def offering : State :=
  { ready .hardwareBulk true (some 0) lit with busy := true, wait := .blockReady, sb := frameBytes lit.fb }

/-- One chip, suspended in a bulk transfer after its block was accepted. -/
def sending : State :=
  { ready .hardwareBulk true (some 0) lit with busy := true, wait := .blockDone, out := [.block (frameBytes lit.fb)] }

/-- One chip, suspended in a bulk transfer in its settle delay. -/
def settling : State :=
  { ready .hardwareBulk true (some 0) lit with
    busy := true, wait := .delayDone, out := [.block (frameBytes lit.fb), .delay 10] }

theorem witness_AssembledWordIsItsEncoding :
    wellFormedWord 0x010017123400000000 = true ∧ wellFormedWord 0x140000000000000000 = true ∧
      wellFormedWord 0x12FFFFFFFFFFFF0001 = true := by
  decide

theorem witness_IgnoredBitsHaveNoEffect :
    decode 0x07000112345678FFFF = .instr (.settmgrst 1) ∧
      opField 0x07000112345678FFFF = opField 0x070001000000000000 ∧
      (0x07000112345678FFFF : CmdWord) &&& usedBits (opField 0x07000112345678FFFF) =
        0x070001000000000000 &&& usedBits (opField 0x07000112345678FFFF) := by
  decide

/-- Both ends of each reserved range, each opcode in one range only. -/
theorem witness_ReservedOpcodesDoNothing :
    (opField 0x000000000000000000).toNat = 0x00 ∧ (opField 0x090000000000000000).toNat = 0x09 ∧
      (opField 0x0F0000000000000000).toNat = 0x0F ∧ (opField 0x150000000000000000).toNat = 0x15 ∧
      (opField 0xFF0000000000000000).toNat = 0xFF ∧ chipsOk (offered 0x150000000000000000 one).chips = true ∧
      (offered 0x150000000000000000 one).busy = false ∧
      (offered 0x150000000000000000 one).cmds = 0x150000000000000000 :: [0x140000000000000000] := by
  decide

theorem witness_StepRunsTheDecodedCommand :
    chipsOk (offered 0x080000000000000000 one).chips = true ∧ (offered 0x080000000000000000 one).busy = false ∧
      (offered 0x080000000000000000 one).cmds = 0x080000000000000000 :: [0x140000000000000000] ∧
      decode 0x080000000000000000 = .instr .reset ∧ Instr.reset.wellFormed = true := by
  decide

/-- Each of its cases: a word offered to an idle block, no word, a busy block. -/
theorem witness_CommandHandshake :
    chipsOk one.chips = true ∧ one.busy = false ∧ one.cmds = [] ∧
      (offered 0x080000000000000000 one).busy = false ∧
      (offered 0x080000000000000000 one).cmds = 0x080000000000000000 :: [0x140000000000000000] ∧
      chipsOk suspended.chips = true ∧ suspended.busy = true := by
  decide

theorem witness_EveryCommandHasANextState :
    chipsOk { one with chips := 0 }.chips = false ∧ chipsOk one.chips = true ∧
      chipsOk { one with chips := 5461 }.chips = true ∧ chipsOk { one with chips := 5462 }.chips = false := by
  decide

theorem witness_MapIsTheFormulaOnItsDomain : (11 : Nat) < 12 * 1 ∧ 12 * 1 ≤ (12 : Nat) := by decide

theorem witness_MapIsAnOrderedBijectionOntoGrayscale :
    mapChannel 2 11 = some 11 ∧ mapChannel 2 23 = some 25 ∧ (11 : Nat) < 23 ∧ (23 : Nat) = 11 + 12 ∧
      mapChannel 5461 0 = some 0 ∧ mapChannel 5461 65531 = some 76451 := by
  decide

/-- The last grayscale offset, both control-word offsets of a chip, and the last offset of the largest block. -/
theorem witness_MapInverse :
    (11 : Nat) < nw 1 ∧ 11 % 14 ≤ 11 ∧ 12 < nw 1 ∧ 11 < 12 % 14 ∧ 13 < nw 1 ∧ 11 < 13 % 14 ∧
      76453 < nw 5461 ∧ 11 < 76453 % 14 := by
  decide

theorem witness_LedIsThreeChannelsOfOneChip : (2 : Nat) ≤ 2 ∧ (3 : Nat) < 4 * 1 ∧ 4 * 1 ≤ (4 : Nat) := by decide

/-- The opcode hypotheses of the statements about one command. -/
theorem witness_opcodes :
    opField 0x010017123400000000 = 0x01 ∧ opField 0x020017000000000000 = 0x02 ∧ opField 0x030000100020003000 = 0x03 ∧
      opField 0x040000000100020003 = 0x04 ∧ opField 0x050001008500FF0000 = 0x05 ∧
      opField 0x060000000500060007 = 0x06 ∧ opField 0x070001000000000000 = 0x07 ∧
      opField 0x080000000000000000 = 0x08 ∧ opField 0x100098968000030000 = 0x10 ∧
      opField 0x11000F4240000A0001 = 0x11 ∧ opField 0x12000D000B00030001 = 0x12 ∧
      opField 0x130000000000000000 = 0x13 ∧ opField 0x140000000000000000 = 0x14 := by
  decide

/-- The last channel in range and the first one out of it, on storage of the block's sizes. -/
theorem witness_SetchWritesTheMappedWord :
    Memory.wf two = true ∧ (23 : Word).toNat < 12 * two.chips ∧ 12 * two.chips ≤ (24 : Word).toNat := by decide

theorem witness_GetchRespondsTheMappedWord :
    (23 : Word).toNat < 12 * two.chips ∧ 12 * two.chips ≤ (24 : Word).toNat ∧ 12 * two.chips ≤ (65535 : Word).toNat := by
  decide

theorem witness_GetchAfterSetch :
    Memory.wf one = true ∧ (11 : Word).toNat < 12 * one.chips ∧ 12 * one.chips ≤ (12 : Word).toNat ∧
      (11 : Word) ≠ 12 := by
  decide

theorem witness_SetrgbWritesOneLed :
    Memory.wf two = true ∧ (7 : Word).toNat < 4 * two.chips ∧ ¬(8 : Word).toNat < 4 * two.chips := by decide

theorem witness_SetrgballWritesEveryLed :
    Memory.wf two = true ∧ 1 < two.chips ∧ (3 : Nat) ≤ 3 ∧ 14 * two.chips ≤ 28 ∧ 11 < 12 % 14 ∧ 11 < 13 % 14 := by decide

/-- Both values of `FC`, the last slot of the last chip, the first offset past the end. -/
theorem witness_ResetCommandGivesTheDefaultDeviceState :
    Memory.wf two = true ∧ two.fc = 0x12 ∧ Memory.wf { two with fc := 0x16 } = true ∧ { two with fc := 0x16 }.fc = 0x16 ∧
      1 < two.chips ∧ (11 : Nat) ≤ 11 ∧ 14 * two.chips ≤ 28 := by
  decide

theorem witness_OutOfRangeIsSilentlyIgnored :
    12 * one.chips ≤ (12 : Word).toNat ∧ 4 * one.chips ≤ (4 : Word).toNat ∧ one.chips ≤ (1 : Word).toNat := by decide

theorem witness_PseudoOperationsExpand : chipsOk two.chips = true ∧ Memory.wf two = true := by decide

theorem witness_SettersAreIdempotent :
    Memory.wf two = true ∧ setsGrayscale (.setch 12 0x8000) = true ∧ setsControl (.settmgrst 1) = true := by decide

theorem witness_CommandsReachOnlyTheirWords :
    Memory.wf two = true ∧ setsGrayscale (.setrgball 1 2 3) = true ∧ setsControl (.setbcall 1 2 3) = true ∧
      11 % 14 ≤ 11 ∧ 14 % 14 ≤ 11 ∧ ofTransferer .write = true := by
  decide

theorem witness_StoredHalvesInFieldTerms : Memory.wf two = true ∧ (1 : Word).toNat < two.chips := by decide

/-- The last chip and the first index past it. -/
theorem witness_SetbcWritesOneControlWord :
    Memory.wf two = true ∧ (1 : Word).toNat < two.chips ∧ ¬(2 : Word).toNat < two.chips := by decide

theorem witness_SetbcallWritesEveryControlWord :
    Memory.wf two = true ∧ 1 < two.chips ∧ 14 * two.chips ≤ 28 ∧ 25 % 14 ≤ 11 := by decide

theorem witness_SettmgrstWritesFcAndEveryControlWord :
    Memory.wf two = true ∧ 1 < two.chips ∧ 14 * two.chips ≤ 28 ∧ 25 % 14 ≤ 11 ∧ (0x8000 : Word) ≠ 0 := by decide

theorem witness_StoredControlWordDecodes : Memory.wf one = true ∧ (0 : Word).toNat < one.chips := by decide

theorem witness_SettmgrstDiscardsBrightness :
    Memory.wf two = true ∧ (∃ c r g b, Instr.setbc 1 1 2 3 = .setbc c r g b) ∧
      (∃ r g b, Instr.setbcall 1 2 3 = .setbcall r g b) ∧ 1 < two.chips :=
  ⟨rfl, ⟨1, 1, 2, 3, rfl⟩, ⟨1, 2, 3, rfl⟩, by decide⟩

/-- A teardown that frees no level: nothing configured, or a peripheral configured. -/
theorem witness_CfgbulkConfigures :
    ¬(one.xstate = .configured ∧ one.mode = .softwareBitbang) ∧
      ¬((ready .hardwareWordwise true none one).xstate = .configured ∧
        (ready .hardwareWordwise true none one).mode = .softwareBitbang) := by
  decide

theorem witness_CfgwordConfigures :
    ¬((ready .hardwareBulk true none one).xstate = .configured ∧
      (ready .hardwareBulk true none one).mode = .softwareBitbang) := by
  decide

theorem witness_EndLeavesConfigured :
    (ready .hardwareBulk false none one).xstate = .configured ∧
      (ready .hardwareBulk false none one).mode ≠ .softwareBitbang ∧ one.xstate ≠ .configured ∧
      { one with xstate := .ended }.xstate ≠ .configured := by
  decide

theorem witness_FrameBufferCommandsIgnoreTheTransferState : ofTransferer (.setrgb 0 1 2 3) = false := by decide

/-- The first and the last bit of the frame, and the two ends of a chip's control word. -/
theorem witness_FrameBitPositions :
    Memory.wf two = true ∧ 0 < 224 * two.chips ∧ 447 < 224 * two.chips ∧ 31 % 224 < 32 ∧ ¬32 % 224 < 32 := by decide

theorem witness_StagingBufferHoldsTheFrame :
    Memory.wf (ready .hardwareBulk true (some 0) lit) = true ∧
      (ready .hardwareBulk true (some 0) lit).xstate = .configured ∧
      (ready .hardwareBulk true (some 0) lit).mode = .hardwareBulk ∧
      (ready .hardwareBulk true (some 0) lit).grants = some 0 ∧ 13 < 14 * lit.chips := by
  decide

theorem witness_WriteOutsideConfiguredDoesNothing :
    one.xstate ≠ .configured ∧ { one with xstate := .ended }.xstate ≠ .configured := by decide

theorem witness_BulkWriteSendsOneBlock :
    Memory.wf (ready .hardwareBulk false none lit) = true ∧
      (ready .hardwareBulk false none lit).xstate = .configured ∧
      (ready .hardwareBulk false none lit).mode = .hardwareBulk ∧ (ready .hardwareBulk false none lit).grants = none := by
  decide

theorem witness_WordwiseWriteSendsEveryWord :
    chipsOk (ready .hardwareWordwise true none lit).chips = true ∧
      Memory.wf (ready .hardwareWordwise true none lit) = true ∧
      (ready .hardwareWordwise true none lit).xstate = .configured ∧
      (ready .hardwareWordwise true none lit).mode = .hardwareWordwise ∧
      (ready .hardwareWordwise true none lit).grants = none := by
  decide

theorem witness_BitbangWriteClocksEveryBit :
    chipsOk (ready .softwareBitbang true none lit).chips = true ∧
      Memory.wf (ready .softwareBitbang true none lit) = true ∧
      (ready .softwareBitbang true none lit).xstate = .configured ∧
      (ready .softwareBitbang true none lit).mode = .softwareBitbang ∧
      (ready .softwareBitbang true none lit).grants = none := by
  decide

/-- Met in each of the three strategies. -/
theorem witness_StrategiesAgreeOnTheWire :
    ∀ m : Mode, chipsOk (ready m true none lit).chips = true ∧ Memory.wf (ready m true none lit) = true ∧
      (ready m true none lit).xstate = .configured ∧ (ready m true none lit).grants = none ∧
      ClockIdlesLow (ready m true none lit) :=
  fun _ => ⟨rfl, rfl, rfl, rfl, fun _ _ => rfl⟩

theorem witness_TransferEventCounts :
    ∀ m : Mode, Memory.wf (ready m false none lit) = true ∧ (ready m false none lit).xstate = .configured ∧
      (ready m false none lit).grants = none :=
  fun _ => ⟨rfl, rfl, rfl⟩

theorem witness_TransfersOnlyReadTheFrameBuffer : chipsOk suspended.chips = true ∧ suspended.busy = true := by decide

/-- A WRITE that completes in its own step, in a masked strategy, and suspended ones, in each wait, that complete in the
step that brings the answers. -/
theorem witness_CompletedTransferEndsInOneSettleDelay :
    ((ready .hardwareWordwise true none lit).xstate = .configured ∧
      (nextOf (exec .write (ready .hardwareWordwise true none lit))).map State.busy = some false) ∧
    ∀ s ∈ [suspended, offering, sending, settling],
      Inv { s with grants := none } ∧ { s with grants := none }.busy = true ∧
        (nextOf (step { s with grants := none })).map State.busy = some false := by
  refine ⟨by decide, ?_⟩
  simp only [List.forall_mem_cons]
  exact ⟨⟨by decide, by decide, by decide⟩, ⟨by decide, by decide, by decide⟩, ⟨by decide, by decide, by decide⟩,
    ⟨by decide, by decide, by decide⟩, fun _ h => nomatch h⟩

/-- A masked and an unmasked WRITE that complete, and a bulk one; a masked and a bulk one that were suspended. -/
theorem witness_MaskEnclosesTheFrame :
    (Inv { suspended with grants := none } ∧ suspended.maskEn = true ∧ suspended.mode ≠ .hardwareBulk ∧
      (nextOf (step { suspended with grants := none })).map State.busy = some false) ∧
    (Inv { settling with grants := none } ∧ settling.mode = .hardwareBulk ∧
      (nextOf (step { settling with grants := none })).map State.busy = some false) ∧
    (nextOf (exec .write (ready .hardwareWordwise true none lit))).map State.busy = some false ∧
      (nextOf (exec .write (ready .hardwareWordwise false none lit))).map State.busy = some false ∧
      (nextOf (exec .write (ready .hardwareBulk true none lit))).map State.busy = some false :=
  ⟨⟨by decide, by decide, by decide, by decide⟩, ⟨by decide, by decide, by decide⟩, by decide⟩

/-- No answer at all, one answer short of the words, every word, and one answer more. -/
theorem witness_WordwiseTransferWaitsForThePeripheral :
    (∀ k : Nat, chipsOk (ready .hardwareWordwise true (some k) lit).chips = true ∧
      Memory.wf (ready .hardwareWordwise true (some k) lit) = true ∧
      (ready .hardwareWordwise true (some k) lit).xstate = .configured ∧
      (ready .hardwareWordwise true (some k) lit).mode = .hardwareWordwise ∧
      (ready .hardwareWordwise true (some k) lit).grants = some k) ∧
    0 < 14 * lit.chips ∧ 13 < 14 * lit.chips ∧ 14 = 14 * lit.chips ∧ 14 * lit.chips < 15 :=
  ⟨fun _ => ⟨rfl, rfl, rfl, rfl, rfl⟩, by decide⟩

theorem witness_BitbangTransferWaitsOnlyForTheDelay :
    Memory.wf (ready .softwareBitbang true (some 0) lit) = true ∧
      (ready .softwareBitbang true (some 0) lit).xstate = .configured ∧
      (ready .softwareBitbang true (some 0) lit).mode = .softwareBitbang ∧
      (ready .softwareBitbang true (some 0) lit).grants = some 0 := by
  decide

/-- Each number of answers that a case of the statement names. -/
theorem witness_BulkTransferWaits :
    ∀ k : Nat, (ready .hardwareBulk true (some k) lit).xstate = .configured ∧
      (ready .hardwareBulk true (some k) lit).mode = .hardwareBulk ∧
      (ready .hardwareBulk true (some k) lit).grants = some k :=
  fun _ => ⟨rfl, rfl, rfl⟩

theorem witness_HungBlockStaysForEver : chipsOk suspended.chips = true ∧ Hung suspended := by decide

/-- A WRITE that is left suspended after `k` answers, in each of the three strategies and in each wait. -/
theorem witness_SuspendedTransferGoesOnAsUninterrupted :
    (∀ (m : Mode) (k : Nat), chipsOk (ready m true (some k) lit).chips = true ∧
      (ready m true (some k) lit).xstate = .configured ∧ (ready m true (some k) lit).grants = some k) ∧
    (∀ p ∈ [(Mode.hardwareWordwise, 3), (.hardwareWordwise, 14), (.hardwareBulk, 0), (.hardwareBulk, 1),
        (.hardwareBulk, 2)],
      (nextOf (exec .write (ready p.1 true (some p.2) lit))).map State.busy = some true) ∧
    (nextOf (exec .write (ready .softwareBitbang true (some 0) lit))).map State.busy = some true := by
  refine ⟨fun _ _ => ⟨rfl, rfl, rfl⟩, by decide, ?_⟩
  change some (settle (guardEnd (bitbangWords 14
    (guardBegin (setBusy (ready .softwareBitbang true (some 0) lit)))))).busy = some true
  rw [settle_of_zero (by rw [guardEnd_eq, bitbangWords_eq, guardBegin_eq]; rfl), guardEnd_eq, bitbangWords_eq,
    guardBegin_eq]
  rfl

/-- The invariant right after construction, with a control word set, and inside a suspended transfer in each wait; the
block steps. -/
theorem witness_EveryStepKeepsTheInvariant :
    Inv (offered 0x140000000000000000 one) ∧ Inv lit ∧ Inv suspended ∧ Inv offering ∧ Inv sending ∧ Inv settling ∧
      (nextOf (step (offered 0x140000000000000000 one))).isSome = true ∧ (nextOf (step suspended)).isSome = true :=
  ⟨by decide, by decide, by decide, by decide, by decide, by decide, by decide, by decide⟩

theorem witness_ConstructionMeetsTheInvariant : chipsOk 1 = true ∧ chipsOk 5461 = true := by decide

theorem witness_ConstructionValues :
    ((1 : Nat) ≤ 1 ∧ (1 : Nat) ≤ 5461) ∧ ((1 : Nat) ≤ 5461 ∧ (5461 : Nat) ≤ 5461) ∧ ((0 : Nat) = 0 ∨ 5461 < (0 : Nat)) ∧
      ((5462 : Nat) = 0 ∨ 5461 < (5462 : Nat)) := by
  decide

/-- A step from a block of the right sizes, whose control word is not zero. -/
theorem witness_OnlyResetLeadsBack :
    Memory.wf (offered 0x080000000000000000 lit) = true ∧ 0 < lit.chips ∧
      readCtl (offered 0x080000000000000000 lit) 0 ≠ 0 ∧
      (nextOf (step (offered 0x080000000000000000 lit))).map State.xstate = some .uninitialized := by
  decide

theorem witness_ChipCountIsConstant :
    (nextOf (step (offered 0x080000000000000000 lit))).isSome = true ∧
      Memory.wf (offered 0x080000000000000000 lit) = true := by
  decide

theorem witness_TransfererStateMachine :
    (∃ hz us m, Instr.cfgbulk 1 2 true = .cfgbulk hz us m) ∧ (∃ hz us m, Instr.cfgword 1 2 true = .cfgword hz us m) ∧
      (∃ c d us m, Instr.cfgbb 1 2 3 true = .cfgbb c d us m) ∧ ofTransferer .reset = false :=
  ⟨⟨1, 2, true, rfl⟩, ⟨1, 2, true, rfl⟩, ⟨1, 2, 3, true, rfl⟩, rfl⟩

theorem witness_OnlySettmgrstWritesFc :
    (∃ val, Instr.settmgrst 1 = .settmgrst val) ∧ ∀ val, Instr.reset ≠ .settmgrst val :=
  ⟨⟨1, rfl⟩, fun _ h => nomatch h⟩

end Sys2Proof.Tests
end

/-! PROOFS. What one step and one command do to the whole block, said once each: the cases of a step, which fields each
class of commands leaves alone, what a command leaves in `FC` and in the control words. -/

namespace Sys2Proof.Machine

open Safety

/-! ### The step (10_state.md R26) -/

theorem step_of_instr {s : State} {c : CmdWord} {rest : List CmdWord} {i : Instr} (hc : chipsOk s.chips = true)
    (hb : s.busy = false) (h : s.cmds = c :: rest) (hd : decode c = .instr i) :
    step s = exec i { s with cmds := rest } := by
  simp [step, hc, hb, takeCommand_of_cons hb h, hd]

theorem step_of_reserved {s : State} {c : CmdWord} {rest : List CmdWord} {op : BitVec 8}
    (hc : chipsOk s.chips = true) (hb : s.busy = false) (h : s.cmds = c :: rest) (hd : decode c = .reserved op) :
    step s = .next { s with cmds := rest } := by
  simp [step, hc, hb, takeCommand_of_cons hb h, hd]

/-- Everything a step can do: a suspended transfer goes on, nothing is offered, a reserved word is dropped, or a command
is executed. -/
theorem step_cases {s t : State} (h : step s = .next t) :
    (s.busy = true ∧ t = resume s) ∨
    (s.busy = false ∧ s.cmds = [] ∧ t = s) ∨
    (s.busy = false ∧ ∃ c rest op, s.cmds = c :: rest ∧ decode c = .reserved op ∧ t = { s with cmds := rest }) ∨
    (s.busy = false ∧ ∃ c rest i, s.cmds = c :: rest ∧ decode c = .instr i ∧
      exec i { s with cmds := rest } = .next t) := by
  have hc : chipsOk s.chips = true := by
    by_contra hc
    simp [step, hc] at h
  obtain hb | hb := Bool.eq_false_or_eq_true s.busy
  · rw [step_of_busy hc hb] at h
    cases h
    exact .inl ⟨hb, rfl⟩
  · cases hw : s.cmds with
    | nil =>
      rw [step_of_idle hc hb hw] at h
      cases h
      exact .inr (.inl ⟨hb, rfl, rfl⟩)
    | cons c rest =>
      cases hd : decode c with
      | instr i =>
        rw [step_of_instr hc hb hw hd] at h
        exact .inr (.inr (.inr ⟨hb, c, rest, i, rfl, hd, h⟩))
      | reserved op =>
        rw [step_of_reserved hc hb hw hd] at h
        cases h
        exact .inr (.inr (.inl ⟨hb, c, rest, op, rfl, hd, rfl⟩))

/-! ### The commands -/

/-- Every command has a next state (60_exceptions.md R180). -/
theorem exec_total (i : Instr) (s : State) : ∃ t, exec i s = .next t := by
  cases i
  case setrgb => simp only [exec, execSetrgb]; split <;> exact ⟨_, rfl⟩
  case setbc => simp only [exec, execSetbc]; split <;> exact ⟨_, rfl⟩
  case endcfg => simp only [exec, execEndcfg]; split <;> exact ⟨_, rfl⟩
  case write => simp only [exec, execWrite]; split <;> exact ⟨_, rfl⟩
  all_goals exact ⟨_, rfl⟩

/-- A frame-buffer command changes `FB`, `FC` and the trace at most (43_transferer.md R141), and `FC` only if it is
SETTMGRST (10_state.md R14). -/
theorem exec_frameBuffer {i : Instr} {s t : State} (hi : ofTransferer i = false) (h : exec i s = .next t) :
    t = { s with fb := t.fb, fc := t.fc, out := t.out } ∧ ((∀ val, i ≠ .settmgrst val) → t.fc = s.fc) := by
  cases i
  case setch =>
    cases h
    rw [(writeChannel_frame _ _ _).1]
    exact ⟨rfl, fun _ => rfl⟩
  case setrgb => simp only [exec, execSetrgb] at h; split at h <;> cases h <;> exact ⟨rfl, fun _ => rfl⟩
  case setbc => simp only [exec, execSetbc] at h; split at h <;> cases h <;> exact ⟨rfl, fun _ => rfl⟩
  case settmgrst val =>
    cases h
    exact ⟨rfl, fun hne => absurd rfl (hne val)⟩
  case getch | setrgball | setbcall | reset =>
    cases h
    exact ⟨rfl, fun _ => rfl⟩
  all_goals cases hi

/-- END changes nothing but the trace, the output levels, the free values and `XSTATE`, which it does not leave
configured (43_transferer.md R146). -/
theorem execEndcfg_spec {s t : State} (h : exec .endcfg s = .next t) :
    t = { s with xstate := t.xstate, out := t.out, sclk := t.sclk, sdata := t.sdata, freeCtr := t.freeCtr } ∧
      t.xstate ≠ .configured := by
  simp only [exec, execEndcfg] at h
  split at h <;> cases h
  · rw [(teardown_spec s).1]
    exact ⟨rfl, nofun⟩
  · next hx => exact ⟨rfl, by simp [hx]⟩
  · next hx => exact ⟨rfl, by simp [hx]⟩

/-- WRITE is the transfer where a strategy is configured and nothing elsewhere (43_transferer.md R147, R148). -/
theorem execWrite_cases {s t : State} (h : exec .write s = .next t) :
    (s.xstate = .configured ∧ t = transfer s) ∨ t = s := by
  simp only [exec, execWrite] at h
  split at h <;> cases h
  · exact .inl ⟨by assumption, rfl⟩
  · exact .inr rfl
  · exact .inr rfl

theorem TransferFrame.chips_eq {s t : State} (h : TransferFrame s t) : t.chips = s.chips := by rw [h]

theorem TransferFrame.fb_eq {s t : State} (h : TransferFrame s t) : t.fb = s.fb := by rw [h]

theorem TransferFrame.fc_eq {s t : State} (h : TransferFrame s t) : t.fc = s.fc := by rw [h]

theorem TransferFrame.cmds_eq {s t : State} (h : TransferFrame s t) : t.cmds = s.cmds := by rw [h]

/-- No command of the Transferer writes the frame buffer or `FC` (43_transferer.md R141). -/
theorem exec_transferer_keeps {i : Instr} {s t : State} (hi : ofTransferer i = true) (h : exec i s = .next t) :
    t.fb = s.fb ∧ t.fc = s.fc := by
  cases i
  case cfgbulk | cfgword =>
    cases h
    rw [configurePeripheral_eq]
    exact ⟨rfl, rfl⟩
  case cfgbb =>
    cases h
    rw [configurePins_eq]
    exact ⟨rfl, rfl⟩
  case endcfg =>
    rw [(execEndcfg_spec h).1]
    exact ⟨rfl, rfl⟩
  case write =>
    obtain ⟨-, rfl⟩ | rfl := execWrite_cases h
    · exact ⟨(transfer_frame s).fb_eq, (transfer_frame s).fc_eq⟩
    · exact ⟨rfl, rfl⟩
  all_goals cases hi

/-! ### `FC` (10_state.md R14) -/

theorem fcOf_truth (val : Word) : fcOf (truth val) = if val = 0 then 0x12 else 0x16 := by
  by_cases h : val = 0
  · subst h
    rfl
  · have ht : truth val = true := by simpa [truth] using h
    rw [if_neg h, ht]
    rfl

/-- SETTMGRST writes the value its operand selects (41_command_word_builder.md R103). -/
theorem exec_settmgrst_fc {val : Word} {s t : State} (h : exec (.settmgrst val) s = .next t) :
    t.fc = if val = 0 then 0x12 else 0x16 := by
  cases h
  exact fcOf_truth val

/-- Every other command leaves `FC` alone. -/
theorem exec_fc_of_ne {i : Instr} {s t : State} (hi : ∀ val, i ≠ .settmgrst val) (h : exec i s = .next t) :
    t.fc = s.fc := by
  cases ht : ofTransferer i with
  | false => exact (exec_frameBuffer ht h).2 hi
  | true => exact (exec_transferer_keeps ht h).2

/-! ### The control words (20_memory.md R41) -/

/-- Offsets that read alike in the control-word slots give the same control words. -/
theorem readCtl_congr {s t : State} (h : ∀ o, 12 ≤ o % 14 → readWord t o = readWord s o) (c : Nat) :
    readCtl t c = readCtl s c := by
  rw [readCtl, readCtl, h _ (by omega), h _ (by omega)]

/-- A chip whose slots 12 and 13 hold the halves of a control word has that control word. -/
theorem readCtl_of_halves {s : State} {c : Nat} {cw : CtlWord} (hl : readWord s (14 * c + 12) = ctlLow cw)
    (hh : readWord s (14 * c + 13) = ctlHigh cw) : readCtl s c = cw := by
  rw [readCtl, hl, hh, ctlHigh_append_ctlLow]

theorem readWord_setFb (fb : List Word) (s : State) (o : Nat) : readWord (setFb fb s) o = fb.getD o 0 := rfl

theorem readCtl_writeChannel (idx : Nat) (v : Word) (s : State) (c : Nat) :
    readCtl (writeChannel idx v s) c = readCtl s c := by
  unfold writeChannel
  split
  · next o ho =>
    obtain ⟨-, rfl⟩ := mapChannel_eq_some.1 ho
    refine readCtl_congr (fun o ho => ?_) c
    rw [writeWord_read, if_neg (by omega)]
  · rfl

theorem readCtl_putLed {s : State} {led base : Nat} (hwf : Memory.wf s = true) (h : ledBase s.chips led = some base)
    (r g b : Word) (c : Nat) : readCtl (setFb (putLed base r g b s.fb) s) c = readCtl s c := by
  obtain ⟨hled, rfl⟩ := ledBase_eq_some.1 h
  refine readCtl_congr (fun o ho => ?_) c
  have hslot (k : Nat) (hk : k ≤ 2) : o ≠ 14 * (led / 4) + 3 * (led % 4) + k := by
    rintro rfl
    rw [Nat.add_assoc, Nat.mul_add_mod, Nat.mod_eq_of_lt (by omega)] at ho
    omega
  rw [readWord_setFb, putLed_getD _ _ _ _ _ (by rw [wf_fb hwf]; omega), if_neg (by exact hslot 0 (by omega)),
    if_neg (hslot 1 (by omega)), if_neg (hslot 2 (by omega))]
  rfl

theorem readCtl_putAllLeds {s : State} (hwf : Memory.wf s = true) (r g b : Word) (c : Nat) :
    readCtl (setFb (putAllLeds r g b s.chips s.fb) s) c = readCtl s c := by
  refine readCtl_congr (fun o ho => ?_) c
  rw [readWord_setFb, putAllLeds_getD _ _ _ _ _ (wf_fb hwf).ge, if_neg (by omega)]
  rfl

theorem readCtl_putCtl_same {s : State} {c : Nat} (hwf : Memory.wf s = true) (hc : c < s.chips) (cw : CtlWord) :
    readCtl (setFb (putCtl (14 * c + 12) cw s.fb) s) c = cw := by
  have hlen : 14 * c + 12 + 1 < s.fb.length := by rw [wf_fb hwf]; omega
  apply readCtl_of_halves
  · rw [readWord_setFb, putCtl_getD _ _ _ hlen, if_pos rfl]
  · rw [readWord_setFb, putCtl_getD _ _ _ hlen, if_neg (by omega), if_pos rfl]

theorem readCtl_putCtl_of_ne {s : State} {c i : Nat} (hwf : Memory.wf s = true) (hi : i < s.chips) (hne : c ≠ i)
    (cw : CtlWord) : readCtl (setFb (putCtl (14 * i + 12) cw s.fb) s) c = readCtl s c := by
  have hread : ∀ o, o / 14 ≠ i → readWord (setFb (putCtl (14 * i + 12) cw s.fb) s) o = readWord s o := by
    intro o ho
    rw [readWord_setFb, putCtl_getD _ _ _ (by rw [wf_fb hwf]; omega), if_neg (by omega), if_neg (by omega)]
    rfl
  rw [readCtl, readCtl, hread _ (by omega), hread _ (by omega)]

theorem readCtl_putAllCtl {s : State} {c : Nat} (hwf : Memory.wf s = true) (hc : c < s.chips) (cw : CtlWord) :
    readCtl (setFb (putAllCtl cw s.chips s.fb) s) c = cw := by
  apply readCtl_of_halves
  · rw [readWord_setFb, putAllCtl_getD _ _ _ (wf_fb hwf).ge, if_pos (by omega), if_pos (by omega)]
  · rw [readWord_setFb, putAllCtl_getD _ _ _ (wf_fb hwf).ge, if_pos (by omega), if_neg (by omega)]

theorem readCtl_putAllDefault {s : State} {c : Nat} (hwf : Memory.wf s = true) (hc : c < s.chips) (cw : CtlWord) :
    readCtl (setFb (putAllDefault cw s.chips s.fb) s) c = cw := by
  apply readCtl_of_halves
  · rw [readWord_setFb, putAllDefault_getD _ _ _ (wf_fb hwf).ge, if_pos (by omega), if_neg (by omega),
      if_pos (by omega)]
  · rw [readWord_setFb, putAllDefault_getD _ _ _ (wf_fb hwf).ge, if_pos (by omega), if_neg (by omega),
      if_neg (by omega)]

/-- A control word after a command is the old one under the old `FC`, or one composed with the `FC` that holds now: that
a control word never carries an outdated `FC` rests on SETTMGRST writing every one (41_command_word_builder.md R103). -/
theorem exec_readCtl {i : Instr} {s t : State} (hwf : Memory.wf s = true) (h : exec i s = .next t) {c : Nat}
    (hc : c < s.chips) :
    (readCtl t c = readCtl s c ∧ t.fc = s.fc) ∨ ∃ bcr bcg bcb, readCtl t c = composeCtl t.fc bcr bcg bcb := by
  cases i
  case setch =>
    cases h
    refine .inl ⟨readCtl_writeChannel _ _ _ _, ?_⟩
    rw [(writeChannel_frame _ _ _).1]
  case getch =>
    cases h
    exact .inl ⟨rfl, rfl⟩
  case setrgb =>
    simp only [exec, execSetrgb] at h
    split at h <;> cases h
    · next hbase => exact .inl ⟨readCtl_putLed hwf hbase _ _ _ _, rfl⟩
    · exact .inl ⟨rfl, rfl⟩
  case setrgball =>
    cases h
    exact .inl ⟨readCtl_putAllLeds hwf _ _ _ _, rfl⟩
  case setbc idx bcr bcg bcb =>
    simp only [exec, execSetbc] at h
    by_cases hidx : idx.toNat < s.chips
    · rw [ctlBase_of_lt hidx] at h
      cases h
      by_cases hci : c = idx.toNat
      · subst hci
        exact .inr ⟨bcr, bcg, bcb, readCtl_putCtl_same hwf hc _⟩
      · exact .inl ⟨readCtl_putCtl_of_ne hwf hidx hci _, rfl⟩
    · rw [ctlBase_of_le (Nat.le_of_not_lt hidx)] at h
      cases h
      exact .inl ⟨rfl, rfl⟩
  case setbcall bcr bcg bcb =>
    cases h
    exact .inr ⟨bcr, bcg, bcb, readCtl_putAllCtl hwf hc _⟩
  case settmgrst =>
    cases h
    exact .inr ⟨_, _, _, readCtl_putAllCtl hwf hc _⟩
  case reset =>
    cases h
    exact .inr ⟨_, _, _, readCtl_putAllDefault hwf hc _⟩
  case cfgbulk | cfgword | cfgbb | endcfg | write =>
    obtain ⟨hfb, hfc⟩ := exec_transferer_keeps rfl h
    refine .inl ⟨?_, hfc⟩
    rw [readCtl, readCtl, readWord, readWord, hfb]
    rfl

/-! ### Construction (10_state.md R31) -/

theorem readWord_construct (c : Nat) (tmgrst : Bool) (o : Nat) : readWord (State.construct c tmgrst) o = 0 := by
  simp only [readWord, State.construct, List.getD_eq_getElem?_getD, List.getElem?_replicate]
  split <;> rfl

theorem readCtl_construct (c : Nat) (tmgrst : Bool) (i : Nat) : readCtl (State.construct c tmgrst) i = 0 := by
  rw [readCtl, readWord_construct, readWord_construct]
  rfl

theorem construct_fc (c : Nat) (tmgrst : Bool) :
    (State.construct c tmgrst).fc = 0x12 ||| (if tmgrst then 0x04 else 0x00) := by
  cases tmgrst <;> rfl

theorem chipsOk_iff (c : Nat) : chipsOk c = true ↔ 1 ≤ c ∧ c ≤ 5461 := by simp [chipsOk]

theorem construct_of_ok {c : Nat} (h : chipsOk c = true) (tmgrst : Bool) :
    construct c tmgrst = .next (State.construct c tmgrst) := by
  simp [construct, h]

theorem construct_of_not_ok {c : Nat} (h : ¬chipsOk c = true) (tmgrst : Bool) :
    construct c tmgrst = .refused .chipCount := by
  simp [construct, h]

end Sys2Proof.Machine

/-! PROOFS. The invariant of the block in two parts, the storage's and the transfer's, and that every step keeps each:
for the transfer, one lemma per stage of a strategy, from the last stage (the settle delay) back to the first. -/

namespace Sys2Proof.Machine.Safety

/-- The part of the invariant about chip count, storage, `FC` and control words (10_state.md R30 (a) to (c)). -/
structure StorageSafe (s : State) : Prop where
  chips : chipsOk s.chips = true
  wf : Memory.wf s = true
  fc : FcLegal s
  ctl : CtlLegal s

/-- The part of the invariant about the transfer and the output levels (10_state.md R30 (e), 43_transferer.md R154,
R159). -/
structure TransferSafe (s : State) : Prop where
  idle : IdleUnmasked s
  wait : WaitLegal s
  clock : ClockIdlesLow s
  sent : SentSoFar s

theorem inv_iff {s : State} : Inv s ↔ StorageSafe s ∧ TransferSafe s := by
  constructor
  · rintro ⟨hchips, hwf, hfc, hctl, hidle, hwait, hclock, hsent⟩
    exact ⟨⟨hchips, hwf, hfc, hctl⟩, ⟨hidle, hwait, hclock, hsent⟩⟩
  · rintro ⟨⟨hchips, hwf, hfc, hctl⟩, ⟨hidle, hwait, hclock, hsent⟩⟩
    exact ⟨hchips, hwf, hfc, hctl, hidle, hwait, hclock, hsent⟩

/-! ### The storage's part -/

/-- What changes only the state of a transfer keeps the storage's part, if it keeps the sizes. -/
theorem StorageSafe.of_frame {s t : State} (h : StorageSafe s) (hf : TransferFrame s t) (hwf : Memory.wf t = true) :
    StorageSafe t := by
  rw [hf] at hwf ⊢
  exact ⟨h.chips, hwf, h.fc, h.ctl⟩

theorem exec_storageSafe {i : Instr} {s t : State} (hs : StorageSafe s) (h : exec i s = .next t) : StorageSafe t := by
  obtain ⟨hchips, -, -⟩ := exec_keeps h
  refine ⟨hchips ▸ hs.chips, exec_keeps_wf hs.wf h, ?_, fun c hc => ?_⟩
  · by_cases hi : ∃ val, i = .settmgrst val
    · obtain ⟨val, rfl⟩ := hi
      have hfc := exec_settmgrst_fc h
      split at hfc
      · exact .inl hfc
      · exact .inr hfc
    · have hfc := exec_fc_of_ne (fun val e => hi ⟨val, e⟩) h
      unfold FcLegal
      rw [hfc]
      exact hs.fc
  · have hc' : c < s.chips := hchips ▸ hc
    obtain ⟨hctl, hfc⟩ | ⟨bcr, bcg, bcb, hctl⟩ := exec_readCtl hs.wf h hc'
    · rw [hctl, hfc]
      exact hs.ctl c hc'
    · rw [hctl]
      exact .inr ⟨ctlMagic_composeCtl _ _ _ _, ctlFc_composeCtl _ _ _ _⟩

/-! ### The transfer's part: the stages of a transfer, from the last to the first -/

/-- An idle block meets the transfer's part with the mask down and the clock low where bit-bang is configured. -/
theorem transferSafe_of_idle {s : State} (hb : s.busy = false) (hm : s.irqMask = false) (hc : ClockIdlesLow s) :
    TransferSafe s where
  idle _ := hm
  wait h := by simp [hb] at h
  clock := hc
  sent h := by simp [hb] at h

/-- The wait for the end of the settle delay, with every event of the transfer in the trace. -/
theorem awaitDelay_safe {s : State} (hx : s.xstate = .configured) (hm : s.irqMask = false) (hc : ClockIdlesLow s)
    (hsent : transferEvents s <:+ s.out) : TransferSafe (awaitDelay s) := by
  unfold awaitDelay
  split
  · next t ht =>
    rw [takeGrant_eq_some ht]
    exact transferSafe_of_idle rfl hm hc
  · exact {
      idle := fun _ => hm
      wait := fun _ => ⟨hx, nofun, nofun, nofun, fun _ => hm⟩
      clock := hc
      sent := fun _ => ⟨hsent, nofun⟩ }

/-- The settle delay, with every event but `Delay` in the trace. -/
theorem settle_safe {s : State} {es : List Event} (hx : s.xstate = .configured) (hm : s.irqMask = false)
    (hc : ClockIdlesLow s) (hes : transferEvents s = es ++ [.delay s.settleUs]) (hsent : es <:+ s.out) :
    TransferSafe (settle s) := by
  refine awaitDelay_safe hx hm hc ?_
  have h : transferEvents (emit (.delay s.settleUs) s) = es ++ [.delay s.settleUs] := hes
  rw [h, emit_out]
  exact List.suffix_append_self_iff.2 hsent

theorem clockIdlesLow_of_mode {s : State} (hm : s.mode ≠ .softwareBitbang) : ClockIdlesLow s :=
  fun _ h => absurd h hm

/-- The wait for the block's completion, with the block in the trace. -/
theorem awaitBlock_safe {s : State} (hx : s.xstate = .configured) (hmode : s.mode = .hardwareBulk)
    (hm : s.irqMask = false) (hsent : [.block (frameBytes s.fb)] <:+ s.out) : TransferSafe (awaitBlock s) := by
  have hc : ClockIdlesLow s := clockIdlesLow_of_mode (by simp [hmode])
  unfold awaitBlock
  split
  · next t ht =>
    rw [takeGrant_eq_some ht]
    exact settle_safe (es := [.block (frameBytes s.fb)]) hx hm hc (transferEvents_of_bulk hmode) hsent
  · exact {
      idle := fun _ => hm
      wait := fun _ => ⟨hx, nofun, nofun, fun _ => ⟨hmode, hm⟩, nofun⟩
      clock := hc
      sent := fun _ => ⟨hsent, nofun⟩ }

/-- The wait for the peripheral to take the block, with the frame in the staging buffer. -/
theorem offerBlock_safe {s : State} (hx : s.xstate = .configured) (hmode : s.mode = .hardwareBulk)
    (hm : s.irqMask = false) (hsb : s.sb = frameBytes s.fb) : TransferSafe (offerBlock s) := by
  unfold offerBlock
  split
  · next t ht =>
    rw [takeGrant_eq_some ht]
    refine awaitBlock_safe hx hmode hm ⟨s.out, ?_⟩
    simp [hsb]
  · exact {
      idle := fun _ => hm
      wait := fun _ => ⟨hx, nofun, fun _ => ⟨hmode, hm⟩, nofun, nofun⟩
      clock := clockIdlesLow_of_mode (by simp [hmode])
      sent := fun _ => ⟨List.nil_suffix, fun _ => hsb⟩ }

/-- What a word-wise transfer has emitted with the words below offset `n` still to be sent. -/
def eventsAbove (n : Nat) (s : State) : List Event :=
  maskEvents s.maskEn ++ ((frameWords s.fb).take (nw s.chips - n)).map .word

theorem sentEvents_eq_eventsAbove {s : State} (h : s.wait = .wordReady) :
    sentEvents s = eventsAbove (s.tp.toNat + 1) s := by
  rw [sentEvents_of_wordReady h, eventsAbove, Nat.sub_sub, Nat.add_comm 1]

/-- A word-wise transfer inside its critical section, with the words below offset `n` still to be sent. -/
structure SendingWords (n : Nat) (s : State) : Prop where
  chips : chipsOk s.chips = true
  wf : Memory.wf s = true
  xstate : s.xstate = .configured
  mode : s.mode = .hardwareWordwise
  mask : s.irqMask = s.maskEn
  le : n ≤ nw s.chips
  sent : eventsAbove n s <:+ s.out

/-- The frame down to offset `n` is the frame down to the offset above it, and then the word at `n`. -/
theorem take_frameWords {fb : List Word} {n : Nat} (h : n < fb.length) :
    (frameWords fb).take (fb.length - n) = (frameWords fb).take (fb.length - (n + 1)) ++ [fb.getD n 0] := by
  have hlen : fb.length - (n + 1) < (frameWords fb).length := by
    rw [frameWords, List.length_reverse]
    omega
  have hword : (frameWords fb)[fb.length - (n + 1)] = fb.getD n 0 := by
    have hidx : fb.length - 1 - (fb.length - (n + 1)) = n := by omega
    simp [frameWords, List.getElem_reverse, hidx, h]
  rw [show fb.length - n = fb.length - (n + 1) + 1 by omega, List.take_succ_eq_append_getElem hlen, hword]

theorem eventsAbove_succ {n : Nat} {s : State} (hwf : Memory.wf s = true) (h : n < nw s.chips) :
    eventsAbove n s = eventsAbove (n + 1) s ++ [.word (readWord s n)] := by
  have hlen := wf_fb hwf
  rw [eventsAbove, eventsAbove, nw, ← hlen, take_frameWords (by rw [hlen]; exact h), List.map_append,
    List.append_assoc]
  rfl

/-- The offset of a frame buffer word fits the sequencer's 17 bits (10_state.md R23). -/
theorem toNat_tp {c n : Nat} (hc : chipsOk c = true) (h : n < nw c) : (BitVec.ofNat 17 n).toNat = n := by
  have := (chipsOk_iff c).1 hc
  rw [BitVec.toNat_ofNat, Nat.mod_eq_of_lt]
  unfold nw at h
  omega

theorem wordTransfer_zero (s : State) : wordTransfer 0 s = settle (guardEnd s) := rfl

theorem wordTransfer_succ_of_some {n : Nat} {s t : State}
    (h : takeGrant { s with tp := BitVec.ofNat 17 n } = some t) :
    wordTransfer (n + 1) s = wordTransfer n (emit (.word (readWord t n)) t) := by
  simp only [wordTransfer, sendWords, h]

theorem wordTransfer_succ_of_none {n : Nat} {s : State}
    (h : takeGrant { s with tp := BitVec.ofNat 17 n } = none) :
    wordTransfer (n + 1) s = suspend .wordReady { s with tp := BitVec.ofNat 17 n } := by
  simp only [wordTransfer, sendWords, h]

/-- The word at offset `n` sent. -/
theorem SendingWords.send {n : Nat} {s : State} (h : SendingWords (n + 1) s) (tp : BitVec 17) (g : Option Nat) :
    SendingWords n (emit (.word (readWord s n)) { s with tp := tp, grants := g }) where
  chips := h.chips
  wf := h.wf
  xstate := h.xstate
  mode := h.mode
  mask := h.mask
  le := Nat.le_of_succ_le h.le
  sent := by
    have heq : eventsAbove n (emit (.word (readWord s n)) { s with tp := tp, grants := g }) = eventsAbove n s := rfl
    rw [heq, eventsAbove_succ h.wf h.le]
    exact List.suffix_append_self_iff.2 h.sent

/-- Stopping before the word at offset `n`. -/
theorem SendingWords.suspend_safe {n : Nat} {s : State} (h : SendingWords (n + 1) s) (hb : s.busy = true) :
    TransferSafe (suspend .wordReady { s with tp := BitVec.ofNat 17 n }) := by
  have htp : (BitVec.ofNat 17 n).toNat = n := toNat_tp h.chips h.le
  exact {
    idle := fun hb' => by simp [hb] at hb'
    wait := fun _ => ⟨h.xstate, fun _ => ⟨h.mode, htp.symm ▸ h.le, h.mask⟩, nofun, nofun, nofun⟩
    clock := clockIdlesLow_of_mode (by simp [h.mode])
    sent := fun _ => by
      refine ⟨?_, nofun⟩
      rw [sentEvents_eq_eventsAbove rfl, suspend_tp, htp]
      exact h.sent }

/-- With every word sent the mask falls, and the settle delay is left. -/
theorem SendingWords.finish_safe {s : State} (h : SendingWords 0 s) : TransferSafe (settle (guardEnd s)) := by
  have hall : eventsAbove 0 s = maskEvents s.maskEn ++ (frameWords s.fb).map .word := by
    rw [eventsAbove, List.take_of_length_le]
    simp [frameWords, wf_fb h.wf]
  rw [guardEnd_eq]
  refine settle_safe (es := eventsAbove 0 s ++ restoreEvents s.maskEn) h.xstate ?_
    (clockIdlesLow_of_mode (by simp [h.mode])) ?_ (List.suffix_append_self_iff.2 h.sent)
  · simp [h.mask]
  · rw [hall]
    exact transferEvents_of_wordwise h.mode

/-- The words from offset `n-1` down, then the settle delay. -/
theorem wordTransfer_safe (n : Nat) {s : State} (h : SendingWords n s) (hb : s.busy = true) :
    TransferSafe (wordTransfer n s) := by
  induction n generalizing s with
  | zero => exact h.finish_safe
  | succ n ih =>
    cases hg : takeGrant { s with tp := BitVec.ofNat 17 n } with
    | none =>
      rw [wordTransfer_succ_of_none hg]
      exact h.suspend_safe hb
    | some t =>
      rw [wordTransfer_succ_of_some hg, takeGrant_eq_some hg]
      exact ih (h.send _ _) hb

/-! ### The transfer's part: WRITE, a resumed transfer, every command -/

theorem transfer_bulk_safe {s : State} (ht : TransferSafe s) (hb : s.busy = false) (hx : s.xstate = .configured)
    (hm : s.mode = .hardwareBulk) : TransferSafe (transfer s) := by
  rw [transfer_of_bulk hm]
  exact offerBlock_safe hx hm (ht.idle hb) rfl

theorem transfer_wordwise_safe {s : State} (hs : StorageSafe s) (ht : TransferSafe s) (hb : s.busy = false)
    (hx : s.xstate = .configured) (hm : s.mode = .hardwareWordwise) : TransferSafe (transfer s) := by
  rw [transfer_of_wordwise hm, guardBegin_eq]
  refine wordTransfer_safe _ ?_ rfl
  exact {
    chips := hs.chips
    wf := hs.wf
    xstate := hx
    mode := hm
    mask := by simp [ht.idle hb]
    le := Nat.le_refl _
    sent := ⟨s.out, by simp [eventsAbove]⟩ }

/-- The bit cells of a whole frame, with the mask raised before them: the clock ends low whatever it was. -/
theorem bitbang_eq {s : State} (hchips : chipsOk s.chips = true) (hwf : Memory.wf s = true) :
    bitbangWords (nw s.chips) (guardBegin (setBusy s)) = { s with
      out := s.out ++ maskEvents s.maskEn ++ (frameBits s.fb).flatMap cellEvents
      busy := true, irqMask := s.maskEn || s.irqMask
      tp := 0, tb := 0, sclk := false, sdata := (readWord s 0).getLsbD 0 } := by
  have hn : s.chips ≠ 0 := by
    have := (chipsOk_iff _).1 hchips
    omega
  have hwords : wordsDown (guardBegin (setBusy s)) (nw s.chips) = frameWords s.fb := by
    rw [wordsDown_congr (s := s) (by rw [guardBegin_eq]; rfl), wordsDown_eq_frameWords (wf_fb hwf)]
  rw [bitbangWords_eq, hwords, guardBegin_eq]
  simp [hn, frameBits, setBusy, readWord]

theorem transfer_bitbang_safe {s : State} (hs : StorageSafe s) (ht : TransferSafe s) (hb : s.busy = false)
    (hx : s.xstate = .configured) (hm : s.mode = .softwareBitbang) : TransferSafe (transfer s) := by
  rw [transfer_of_bitbang hm, bitbang_eq hs.chips hs.wf, guardEnd_eq]
  refine settle_safe hx ?_ (fun _ _ => rfl) (transferEvents_of_bitbang hm) ⟨s.out, ?_⟩
  · simp [ht.idle hb]
  · simp

theorem transfer_safe {s : State} (hs : StorageSafe s) (ht : TransferSafe s) (hb : s.busy = false)
    (hx : s.xstate = .configured) : TransferSafe (transfer s) := by
  cases hm : s.mode with
  | hardwareBulk => exact transfer_bulk_safe ht hb hx hm
  | hardwareWordwise => exact transfer_wordwise_safe hs ht hb hx hm
  | softwareBitbang => exact transfer_bitbang_safe hs ht hb hx hm

/-- A suspended transfer goes on from the stage its wait stands for. -/
theorem resume_safe {s : State} (hs : StorageSafe s) (ht : TransferSafe s) (hb : s.busy = true) :
    TransferSafe (resume s) := by
  obtain ⟨hx, hword, hready, hdone, hdelay⟩ := ht.wait hb
  obtain ⟨hsent, hsb⟩ := ht.sent hb
  unfold resume
  split
  · next hw =>
    obtain ⟨hm, htp, hmask⟩ := hword hw
    rw [sentEvents_eq_eventsAbove hw] at hsent
    exact wordTransfer_safe _ ⟨hs.chips, hs.wf, hx, hm, hmask, htp, hsent⟩ hb
  · next hw =>
    obtain ⟨hm, hmask⟩ := hready hw
    exact offerBlock_safe hx hm hmask (hsb hw)
  · next hw =>
    obtain ⟨hm, hmask⟩ := hdone hw
    exact awaitBlock_safe hx hm hmask (sentEvents_of_blockDone hw ▸ hsent)
  · next hw => exact awaitDelay_safe hx (hdelay hw) ht.clock (sentEvents_of_delayDone hw ▸ hsent)

theorem exec_transferSafe {i : Instr} {s t : State} (hs : StorageSafe s) (ht : TransferSafe s) (hb : s.busy = false)
    (h : exec i s = .next t) : TransferSafe t := by
  have hmask : s.irqMask = false := ht.idle hb
  cases i
  case write =>
    obtain ⟨hx, rfl⟩ | rfl := execWrite_cases h
    · exact transfer_safe hs ht hb hx
    · exact ht
  case cfgbulk | cfgword =>
    cases h
    rw [configurePeripheral_eq]
    exact transferSafe_of_idle hb hmask (clockIdlesLow_of_mode nofun)
  case cfgbb =>
    cases h
    rw [configurePins_eq]
    exact transferSafe_of_idle hb hmask fun _ _ => rfl
  case endcfg =>
    obtain ⟨heq, hx⟩ := execEndcfg_spec h
    have hc : ClockIdlesLow t := fun h => absurd h hx
    rw [heq] at hc ⊢
    exact transferSafe_of_idle hb hmask hc
  all_goals
    rw [(exec_frameBuffer rfl h).1]
    exact transferSafe_of_idle hb hmask ht.clock

/-- Every step keeps the invariant. -/
theorem step_keeps_inv {s t : State} (hi : Inv s) (h : step s = .next t) : Inv t := by
  rw [inv_iff] at hi ⊢
  obtain ⟨hs, ht⟩ := hi
  have htaken (hb : s.busy = false) (rest : List CmdWord) : TransferSafe { s with cmds := rest } :=
    transferSafe_of_idle hb (ht.idle hb) ht.clock
  have hstorage (rest : List CmdWord) : StorageSafe { s with cmds := rest } := ⟨hs.chips, hs.wf, hs.fc, hs.ctl⟩
  obtain ⟨hb, rfl⟩ | ⟨hb, -, rfl⟩ | ⟨hb, _, rest, _, -, -, rfl⟩ | ⟨hb, _, rest, i, -, -, hexec⟩ := step_cases h
  · exact ⟨hs.of_frame (resume_frame s) (wf_resume s hs.wf), resume_safe hs ht hb⟩
  · exact ⟨hs, ht⟩
  · exact ⟨hstorage rest, htaken hb rest⟩
  · exact ⟨exec_storageSafe (hstorage rest) hexec, exec_transferSafe (hstorage rest) (htaken hb rest) hb hexec⟩

/-- Construction meets the invariant. -/
theorem construct_inv {c : Nat} (h : chipsOk c = true) (tmgrst : Bool) : Inv (State.construct c tmgrst) := by
  rw [inv_iff]
  refine ⟨⟨h, wf_construct c tmgrst, ?_, fun i _ => .inl (readCtl_construct c tmgrst i)⟩,
    transferSafe_of_idle rfl rfl nofun⟩
  cases tmgrst
  · exact .inl rfl
  · exact .inr rfl

end Sys2Proof.Machine.Safety

/-! PROOFS. The statements about the state as a whole: the step and the command handshake (10_state.md R26), the
invariant (R30), construction (R31), what is constant (70_reset_and_hazards.md R202). -/

namespace Sys2Proof.Machine

open Safety

/-- Settles O55: a step resumes a transfer, changes nothing but the command port, or executes a command, and each keeps
both parts of the invariant. -/
theorem everyStepKeepsTheInvariant : Obligations.EveryStepKeepsTheInvariant :=
  fun _ _ => step_keeps_inv

/-- Settles O8. -/
theorem commandHandshake : Obligations.CommandHandshake := by
  intro s hc
  refine ⟨rfl, fun c rest hb hw => ?_, step_of_idle hc, fun hb => ?_⟩
  · cases hd : decode c with
    | instr i =>
      obtain ⟨t, ht⟩ := exec_total i { s with cmds := rest }
      obtain ⟨-, hcmds, -⟩ := exec_keeps ht
      exact ⟨t, (step_of_instr hc hb hw hd).trans ht, hcmds⟩
    | reserved op => exact ⟨_, step_of_reserved hc hb hw hd, rfl⟩
  · have hf := resume_frame s
    exact ⟨resume s, step_of_busy hc hb, hf.cmds_eq, hf⟩

/-- Settles O59. -/
theorem chipCountIsConstant : Obligations.ChipCountIsConstant := by
  intro s t h
  obtain ⟨-, rfl⟩ | ⟨-, -, rfl⟩ | ⟨-, _, rest, _, -, -, rfl⟩ | ⟨-, _, rest, i, -, -, hexec⟩ := step_cases h
  · have hf := resume_frame s
    exact ⟨hf.chips_eq, congrArg List.length hf.fb_eq, wf_resume s⟩
  · exact ⟨rfl, rfl, id⟩
  · exact ⟨rfl, rfl, id⟩
  · obtain ⟨hchips, -, hlen⟩ := exec_keeps hexec
    exact ⟨hchips, hlen, fun hwf => exec_keeps_wf (s := { s with cmds := rest }) hwf hexec⟩

/-- Settles O7. -/
theorem stepRunsTheDecodedCommand : Obligations.StepRunsTheDecodedCommand :=
  fun _ _ _ _ hc hb hw hd _ => step_of_instr hc hb hw hd

/-- Settles O56. -/
theorem constructionMeetsTheInvariant : Obligations.ConstructionMeetsTheInvariant :=
  ⟨construct_inv rfl _, fun _ tmgrst h => construct_inv h tmgrst⟩

/-- Settles O57. -/
theorem constructionValues : Obligations.ConstructionValues := by
  intro c tmgrst
  refine ⟨fun h => ?_, fun h => construct_of_not_ok (by rw [chipsOk_iff]; omega) tmgrst⟩
  have hwf := wf_construct c tmgrst
  exact ⟨_, construct_of_ok ((chipsOk_iff c).2 h) tmgrst, rfl, wf_fb hwf, wf_sb hwf, readWord_construct c tmgrst,
    construct_fc c tmgrst, rfl, rfl, rfl, rfl⟩

/-- Settles O60. -/
theorem onlySettmgrstWritesFc : Obligations.OnlySettmgrstWritesFc := by
  intro i s
  obtain ⟨t, ht⟩ := exec_total i s
  refine ⟨t, ht, ?_, fun hi => exec_fc_of_ne hi ht⟩
  rintro val rfl
  exact exec_settmgrst_fc ht

end Sys2Proof.Machine

/-! PROOFS. The frame buffer and the staging buffer (20_memory.md): what a channel reads after a write, that a write
done twice is done once, which words a class of commands reaches, and the bytes of the staged frame. -/

namespace Sys2Proof.Machine

open Safety

/-! ### The frame-buffer commands, in range and out of range (20_memory.md R47) -/

theorem exec_setch (idx val : Word) (s : State) : exec (.setch idx val) s = .next (writeChannel idx.toNat val s) := rfl

theorem exec_getch (idx : Word) (s : State) :
    exec (.getch idx) s = .next { s with out := s.out ++ [.rsp (readChannel s idx.toNat)] } := rfl

theorem exec_setrgb_of_some {led : Word} {base : Nat} {s : State} (h : ledBase s.chips led.toNat = some base)
    (r g b : Word) : exec (.setrgb led r g b) s = .next (setFb (putLed base r g b s.fb) s) := by
  simp only [exec, execSetrgb, h]

theorem exec_setrgb_of_none {led : Word} {s : State} (h : ledBase s.chips led.toNat = none) (r g b : Word) :
    exec (.setrgb led r g b) s = .next s := by
  simp only [exec, execSetrgb, h]

theorem exec_setrgball (r g b : Word) (s : State) :
    exec (.setrgball r g b) s = .next (setFb (putAllLeds r g b s.chips s.fb) s) := rfl

theorem exec_setbc_of_lt {chipIdx : Word} {s : State} (h : chipIdx.toNat < s.chips) (bcr bcg bcb : Word) :
    exec (.setbc chipIdx bcr bcg bcb) s =
      .next (setFb (putCtl (14 * chipIdx.toNat + 12) (composeCtl s.fc bcr bcg bcb) s.fb) s) := by
  simp only [exec, execSetbc, ctlBase_of_lt h]

theorem exec_setbc_of_le {chipIdx : Word} {s : State} (h : s.chips ≤ chipIdx.toNat) (bcr bcg bcb : Word) :
    exec (.setbc chipIdx bcr bcg bcb) s = .next s := by
  simp only [exec, execSetbc, ctlBase_of_le h]

theorem exec_setbcall (bcr bcg bcb : Word) (s : State) :
    exec (.setbcall bcr bcg bcb) s = .next (setFb (putAllCtl (composeCtl s.fc bcr bcg bcb) s.chips s.fb) s) := rfl

theorem exec_settmgrst (val : Word) (s : State) :
    exec (.settmgrst val) s = .next { s with
      fb := putAllCtl (composeCtl (fcOf (truth val)) fullBrightness fullBrightness fullBrightness) s.chips s.fb
      fc := fcOf (truth val) } := rfl

theorem exec_reset (s : State) :
    exec .reset s =
      .next (setFb (putAllDefault (composeCtl s.fc fullBrightness fullBrightness fullBrightness) s.chips s.fb) s) := rfl

/-! ### A channel after a write (20_memory.md R51) -/

theorem readChannel_of_le {idx : Nat} {s : State} (h : 12 * s.chips ≤ idx) : readChannel s idx = 0 := by
  rw [readChannel_eq, if_neg (by omega)]

theorem writeChannel_chips (idx : Nat) (v : Word) (s : State) : (writeChannel idx v s).chips = s.chips := by
  rw [(writeChannel_frame idx v s).1]

theorem writeChannel_out (idx : Nat) (v : Word) (s : State) : (writeChannel idx v s).out = s.out := by
  rw [(writeChannel_frame idx v s).1]

theorem readChannel_writeChannel_same {idx : Nat} {s : State} (hwf : Memory.wf s = true) (h : idx < 12 * s.chips)
    (v : Word) : readChannel (writeChannel idx v s) idx = v := by
  rw [readChannel_eq, writeChannel_chips, if_pos h, writeChannel_of_lt h, writeWord_read,
    if_pos ⟨rfl, by rw [wf_fb hwf]; omega⟩]

/-- Distinct channels have distinct words (40_index_mapper.md R92), so a write to one is not seen on another. -/
theorem readChannel_writeChannel_of_ne {idx j : Nat} (hne : j ≠ idx) (v : Word) (s : State) :
    readChannel (writeChannel idx v s) j = readChannel s j := by
  obtain h | h := Nat.lt_or_ge idx (12 * s.chips)
  · have hoff : 14 * (j / 12) + j % 12 ≠ 14 * (idx / 12) + idx % 12 := by omega
    have hread : readWord (writeChannel idx v s) (14 * (j / 12) + j % 12) = readWord s (14 * (j / 12) + j % 12) := by
      rw [writeChannel_of_lt h, writeWord_read, if_neg fun e => hoff e.1]
    rw [readChannel_eq, readChannel_eq, writeChannel_chips, hread]
  · rw [writeChannel_of_le h]

/-! ### A write done twice (20_memory.md R48) -/

theorem writeChannel_writeChannel (idx : Nat) (v : Word) (s : State) :
    writeChannel idx v (writeChannel idx v s) = writeChannel idx v s := by
  obtain h | h := Nat.lt_or_ge idx (12 * s.chips)
  · rw [writeChannel_of_lt (by rwa [writeChannel_chips]), writeChannel_of_lt h]
    simp [writeWord, setFb]
  · rw [writeChannel_of_le h, writeChannel_of_le h]

/-! The offsets an operation writes, and the words it writes there, do not depend on what the frame buffer holds. -/

theorem putLed_putLed {base : Nat} {fb : List Word} (h : base + 2 < fb.length) (r g b : Word) :
    putLed base r g b (putLed base r g b fb) = putLed base r g b fb := by
  refine fb_ext (by simp) fun o _ => ?_
  rw [putLed_getD _ _ _ _ _ (by simpa using h), putLed_getD _ _ _ _ _ h]
  split_ifs <;> rfl

theorem putCtl_putCtl {base : Nat} {fb : List Word} (h : base + 1 < fb.length) (cw : CtlWord) :
    putCtl base cw (putCtl base cw fb) = putCtl base cw fb := by
  refine fb_ext (by simp) fun o _ => ?_
  rw [putCtl_getD _ _ _ (by simpa using h), putCtl_getD _ _ _ h]
  split_ifs <;> rfl

theorem putAllLeds_putAllLeds {n : Nat} {fb : List Word} (h : 14 * n ≤ fb.length) (r g b : Word) :
    putAllLeds r g b n (putAllLeds r g b n fb) = putAllLeds r g b n fb := by
  refine fb_ext (by simp) fun o _ => ?_
  rw [putAllLeds_getD _ _ _ _ _ (by simpa using h), putAllLeds_getD _ _ _ _ _ h]
  split_ifs <;> rfl

theorem putAllCtl_putAllCtl {n : Nat} {fb : List Word} (h : 14 * n ≤ fb.length) (cw : CtlWord) :
    putAllCtl cw n (putAllCtl cw n fb) = putAllCtl cw n fb := by
  refine fb_ext (by simp) fun o _ => ?_
  rw [putAllCtl_getD _ _ _ (by simpa using h), putAllCtl_getD _ _ _ h]
  split_ifs <;> rfl

theorem putAllDefault_putAllDefault {n : Nat} {fb : List Word} (h : 14 * n ≤ fb.length) (cw : CtlWord) :
    putAllDefault cw n (putAllDefault cw n fb) = putAllDefault cw n fb := by
  refine fb_ext (by simp) fun o _ => ?_
  rw [putAllDefault_getD _ _ _ (by simpa using h), putAllDefault_getD _ _ _ h]
  split_ifs <;> rfl

theorem setFb_setFb (fb fb' : List Word) (s : State) : setFb fb (setFb fb' s) = setFb fb s := rfl

/-- A setter reads nothing that it writes: the frame buffer is written only, and SETTMGRST composes with the `FC` of its
operand. So the second time it writes what stands there (20_memory.md R48). -/
theorem exec_setter_twice {i : Instr} {s t : State} (hwf : Memory.wf s = true)
    (hi : setsGrayscale i = true ∨ setsControl i = true ∨ i = .reset) (h : exec i s = .next t) :
    exec i t = .next t := by
  have hlen := (wf_fb hwf).ge
  cases i
  case setch idx val =>
    cases h
    rw [exec_setch, writeChannel_writeChannel]
  case setrgb led r g b =>
    cases hbase : ledBase s.chips led.toNat with
    | none =>
      rw [exec_setrgb_of_none hbase] at h
      cases h
      exact exec_setrgb_of_none hbase r g b
    | some base =>
      rw [exec_setrgb_of_some hbase] at h
      cases h
      obtain ⟨hled, rfl⟩ := ledBase_eq_some.1 hbase
      rw [exec_setrgb_of_some (by exact hbase), setFb_setFb, setFb_fb, putLed_putLed (by omega)]
  case setrgball r g b =>
    cases h
    rw [exec_setrgball, setFb_setFb, setFb_fb, setFb_chips, putAllLeds_putAllLeds hlen]
  case setbc chipIdx bcr bcg bcb =>
    obtain hc | hc := Nat.lt_or_ge chipIdx.toNat s.chips
    · rw [exec_setbc_of_lt hc] at h
      cases h
      rw [exec_setbc_of_lt (by exact hc), setFb_setFb, setFb_fb, setFb_fc, putCtl_putCtl (by omega)]
    · rw [exec_setbc_of_le hc] at h
      cases h
      exact exec_setbc_of_le hc bcr bcg bcb
  case setbcall =>
    cases h
    rw [exec_setbcall, setFb_setFb, setFb_fb, setFb_fc, setFb_chips, putAllCtl_putAllCtl hlen]
  case settmgrst val =>
    rw [exec_settmgrst] at h
    cases h
    rw [exec_settmgrst, putAllCtl_putAllCtl hlen]
  case reset =>
    cases h
    rw [exec_reset, setFb_setFb, setFb_fb, setFb_fc, setFb_chips, putAllDefault_putAllDefault hlen]
  all_goals simp [setsGrayscale, setsControl] at hi

/-! ### The words a class of commands reaches (20_memory.md R41) -/

/-- The two slots of a control word are no grayscale slots. -/
theorem readWord_putCtl_of_grayscale {s : State} {c o : Nat} (hwf : Memory.wf s = true) (hc : c < s.chips)
    (ho : o % 14 ≤ 11) (cw : CtlWord) : readWord (setFb (putCtl (14 * c + 12) cw s.fb) s) o = readWord s o := by
  rw [readWord_setFb, putCtl_getD _ _ _ (by rw [wf_fb hwf]; omega), if_neg (by omega), if_neg (by omega)]
  rfl

theorem readWord_putAllCtl_of_grayscale {s : State} {o : Nat} (hwf : Memory.wf s = true) (ho : o % 14 ≤ 11)
    (cw : CtlWord) : readWord (setFb (putAllCtl cw s.chips s.fb) s) o = readWord s o := by
  rw [readWord_setFb, putAllCtl_getD _ _ _ (wf_fb hwf).ge, if_neg (by omega)]
  rfl

theorem exec_grayscale_readCtl {i : Instr} {s t : State} (hwf : Memory.wf s = true) (hi : setsGrayscale i = true)
    (h : exec i s = .next t) (c : Nat) : readCtl t c = readCtl s c := by
  cases i
  case setch =>
    cases h
    exact readCtl_writeChannel _ _ _ _
  case setrgb led r g b =>
    cases hbase : ledBase s.chips led.toNat with
    | none =>
      rw [exec_setrgb_of_none hbase] at h
      cases h
      rfl
    | some base =>
      rw [exec_setrgb_of_some hbase] at h
      cases h
      exact readCtl_putLed hwf hbase _ _ _ _
  case setrgball =>
    cases h
    exact readCtl_putAllLeds hwf _ _ _ _
  all_goals cases hi

theorem exec_control_readWord {i : Instr} {s t : State} (hwf : Memory.wf s = true) (hi : setsControl i = true)
    (h : exec i s = .next t) {o : Nat} (ho : o % 14 ≤ 11) : readWord t o = readWord s o := by
  cases i
  case setbc chipIdx bcr bcg bcb =>
    obtain hc | hc := Nat.lt_or_ge chipIdx.toNat s.chips
    · rw [exec_setbc_of_lt hc] at h
      cases h
      exact readWord_putCtl_of_grayscale hwf hc ho _
    · rw [exec_setbc_of_le hc] at h
      cases h
      rfl
  case setbcall | settmgrst =>
    cases h
    exact readWord_putAllCtl_of_grayscale hwf ho _
  all_goals cases hi

/-! ### The staged frame (20_memory.md R44, 43_transferer.md R151) -/

/-- Word `k` of the frame is the `k`-th from the end of the frame buffer. -/
theorem frameWords_getElem? {s : State} {k : Nat} (h : k < s.fb.length) :
    (frameWords s.fb)[k]? = some (readWord s (s.fb.length - 1 - k)) := by
  rw [frameWords, List.getElem?_reverse h, readWord, List.getD_eq_getElem _ _ (by omega),
    List.getElem?_eq_getElem (by omega)]

/-- Bytes `2*k` and `2*k + 1` of the frame are the two bytes of its word `k`. -/
theorem frameBytes_getElem? {s : State} {k i : Nat} (h : k < s.fb.length) (hi : i < 2) :
    (frameBytes s.fb)[2 * k + i]? =
      [highByte (readWord s (s.fb.length - 1 - k)), lowByte (readWord s (s.fb.length - 1 - k))][i]? := by
  rw [frameBytes, flatMap_getElem? _ 2 (by omega) (fun _ => rfl), show (2 * k + i) / 2 = k by omega,
    show (2 * k + i) % 2 = i by omega, frameWords_getElem? h]
  rfl

theorem exec_write_of_configured {s : State} (h : s.xstate = .configured) : exec .write s = .next (transfer s) := by
  simp only [exec, execWrite, h]

/-- With no answer at all a bulk WRITE has filled the staging buffer and stands before its block (43_transferer.md
R159). -/
theorem exec_write_bulk_of_zero {s : State} (hx : s.xstate = .configured) (hm : s.mode = .hardwareBulk)
    (hg : s.grants = some 0) :
    exec .write s = .next { s with sb := frameBytes s.fb, busy := true, wait := .blockReady } := by
  have hoffer : takeGrant (fillStaging (setBusy s)) = none := takeGrant_of_zero hg
  rw [exec_write_of_configured hx, transfer_of_bulk hm, bulkTransfer, offerBlock, hoffer]
  rfl

/-! ### The statements -/

/-- Settles O16: `MAP` sends distinct channels to distinct words of the frame buffer. -/
theorem getchAfterSetch : Obligations.GetchAfterSetch := by
  intro idx val j s hwf
  refine ⟨writeChannel idx.toNat val s, rfl, fun h => ?_, fun h => ?_, fun hne => ?_⟩
  · rw [exec_getch, writeChannel_out, readChannel_writeChannel_same hwf h]
  · rw [writeChannel_of_le h, exec_getch, readChannel_of_le h]
    exact ⟨rfl, rfl⟩
  · rw [exec_getch, writeChannel_out, readChannel_writeChannel_of_ne fun e => hne (BitVec.eq_of_toNat_eq e)]

/-- Settles O22: no setter reads what it writes. -/
theorem settersAreIdempotent : Obligations.SettersAreIdempotent := by
  intro i s hwf hi
  obtain ⟨t, ht⟩ := exec_total i s
  exact ⟨t, ht, exec_setter_twice hwf hi ht⟩

/-- Settles O23. -/
theorem commandsReachOnlyTheirWords : Obligations.CommandsReachOnlyTheirWords := by
  intro i s hwf
  obtain ⟨t, ht⟩ := exec_total i s
  refine ⟨t, ht, fun hi => exec_grayscale_readCtl hwf hi ht, fun hi _ => exec_control_readWord hwf hi ht, ?_⟩
  rintro (hi | ⟨idx, rfl⟩)
  · exact (exec_transferer_keeps hi ht).1
  · cases ht
    rfl

/-- Settles O39: the fill precedes the first wait, and byte `2*k + i` of the frame is byte `i` of its word `k`. -/
theorem stagingBufferHoldsTheFrame : Obligations.StagingBufferHoldsTheFrame := by
  intro s hwf hx hm hg
  have hfb := wf_fb hwf
  refine ⟨_, exec_write_bulk_of_zero hx hm hg, rfl, rfl, ?_, fun k hk => ?_⟩
  · rw [length_frameBytes]
    omega
  · rw [← hfb] at hk ⊢
    exact ⟨frameBytes_getElem? (i := 0) hk (by omega), frameBytes_getElem? (i := 1) hk (by omega)⟩

/-- Settles O20. -/
theorem outOfRangeIsSilentlyIgnored : Obligations.OutOfRangeIsSilentlyIgnored := by
  intro s
  refine ⟨fun _ val h => congrArg _ (writeChannel_of_le h val), fun idx h => ?_,
    fun _ r g b h => exec_setrgb_of_none (ledBase_eq_none.2 h) r g b,
    fun _ bcr bcg bcb h => exec_setbc_of_le h bcr bcg bcb⟩
  rw [exec_getch, readChannel_of_le h]

end Sys2Proof.Machine

/-! PROOFS. The command word (30_encoding.md R67 to R72): its five fields, one equation per opcode for the decoder, and
that decoder and encoder agree up to the bits an opcode ignores. -/

namespace Sys2Proof

open Sys2Proof.Machine

/-! ### The five fields (R67) -/

/-- Settles O4: each field is a quotient of the word's value, cut to the field's width. -/
theorem commandWordFields : Obligations.CommandWordFields := by
  intro c
  have := c.isLt
  simp only [opField, slotW, slotX, slotY, slotZ, BitVec.extractLsb'_toNat, Nat.shiftRight_eq_div_pow]
  omega

theorem formatK_toNat (op : BitVec 8) (w x y z : Word) :
    (formatK op w x y z).toNat =
      op.toNat * 2 ^ 64 + w.toNat * 2 ^ 48 + x.toNat * 2 ^ 32 + y.toNat * 2 ^ 16 + z.toNat := by
  simp only [formatK, toNat_append_add]
  omega

/-- A word is joined from its own fields. -/
theorem formatK_fields (c : CmdWord) : formatK (opField c) (slotW c) (slotX c) (slotY c) (slotZ c) = c :=
  BitVec.eq_of_toNat_eq ((formatK_toNat _ _ _ _ _).trans (commandWordFields c).symm)

theorem hertzOperand_formatK (op : BitVec 8) (w x y z : Word) : hertzOperand (formatK op w x y z) = w ++ x := by
  rw [hertzOperand, slotW_formatK, slotX_formatK]

theorem maskOperand_formatK (op : BitVec 8) (w x y : Word) (m : Bool) :
    maskOperand (formatK op w x y (maskSlot m)) = m := by
  rw [maskOperand, slotZ_formatK, maskSlot_bit]

/-- Masking a word masks its fields. -/
theorem and_formatK (c : CmdWord) (op : BitVec 8) (w x y z : Word) :
    c &&& formatK op w x y z =
      formatK (opField c &&& op) (slotW c &&& w) (slotX c &&& x) (slotY c &&& y) (slotZ c &&& z) := by
  rw [← formatK_and, formatK_fields]

theorem opcode_and_ones (op : BitVec 8) : op &&& 0xFF = op := BitVec.and_allOnes

theorem slot_and_ones (w : Word) : w &&& 0xFFFF = w := BitVec.and_allOnes

theorem slot_and_zero (w : Word) : w &&& 0 = 0 := BitVec.and_zero

/-- The slot of a mask flag holds the flag's bit and nothing else (R68, R72). -/
theorem maskSlot_getLsbD_zero (z : Word) : maskSlot (z.getLsbD 0) = z &&& 0x0001 := by
  have hbit : z &&& 0x0001 = (BitVec.ofBool (z.getLsbD 0)).setWidth 16 :=
    BitVec.and_one_eq_setWidth_ofBool_getLsbD
  rw [hbit]
  cases z.getLsbD 0 <;> rfl

/-! ### The decoder, opcode by opcode (R69, R70) -/

section

variable {c : CmdWord}

theorem decode_setch (h : opField c = 0x01) : decode c = .instr (.setch (slotW c) (slotX c)) := by
  simp [decode, h]

theorem decode_getch (h : opField c = 0x02) : decode c = .instr (.getch (slotW c)) := by
  simp [decode, h]

theorem decode_setrgb (h : opField c = 0x03) :
    decode c = .instr (.setrgb (slotW c) (slotX c) (slotY c) (slotZ c)) := by
  simp [decode, h]

theorem decode_setrgball (h : opField c = 0x04) : decode c = .instr (.setrgball (slotX c) (slotY c) (slotZ c)) := by
  simp [decode, h]

theorem decode_setbc (h : opField c = 0x05) :
    decode c = .instr (.setbc (slotW c) (slotX c) (slotY c) (slotZ c)) := by
  simp [decode, h]

theorem decode_setbcall (h : opField c = 0x06) : decode c = .instr (.setbcall (slotX c) (slotY c) (slotZ c)) := by
  simp [decode, h]

theorem decode_settmgrst (h : opField c = 0x07) : decode c = .instr (.settmgrst (slotW c)) := by
  simp [decode, h]

theorem decode_reset (h : opField c = 0x08) : decode c = .instr .reset := by
  simp [decode, h]

theorem decode_cfgbulk (h : opField c = 0x10) :
    decode c = .instr (.cfgbulk (hertzOperand c) (slotY c) (maskOperand c)) := by
  simp [decode, h]

theorem decode_cfgword (h : opField c = 0x11) :
    decode c = .instr (.cfgword (hertzOperand c) (slotY c) (maskOperand c)) := by
  simp [decode, h]

theorem decode_cfgbb (h : opField c = 0x12) :
    decode c = .instr (.cfgbb (slotW c) (slotX c) (slotY c) (maskOperand c)) := by
  simp [decode, h]

theorem decode_endcfg (h : opField c = 0x13) : decode c = .instr .endcfg := by
  simp [decode, h]

theorem decode_write (h : opField c = 0x14) : decode c = .instr .write := by
  simp [decode, h]

end

theorem definedOpcode_iff (op : BitVec 8) :
    definedOpcode op = true ↔ (1 ≤ op.toNat ∧ op.toNat ≤ 8) ∨ (0x10 ≤ op.toNat ∧ op.toNat ≤ 0x14) := by
  simp [definedOpcode]

theorem wellFormedWord_iff (c : CmdWord) :
    wellFormedWord c = true ↔ definedOpcode (opField c) = true ∧ c &&& ~~~usedBits (opField c) = 0 := by
  rw [wellFormedWord, Bool.and_eq_true, beq_iff_eq]

/-- A word with a defined opcode is a command. -/
theorem decode_of_defined {c : CmdWord} (h : definedOpcode (opField c) = true) : ∃ i, decode c = .instr i := by
  rw [definedOpcode_iff] at h
  obtain ⟨hlo, hhi⟩ | ⟨hlo, hhi⟩ := h
  all_goals interval_cases hop : (opField c).toNat <;> simp [decode, hop]

/-- A word with any other opcode is reserved. -/
theorem decode_of_not_defined {c : CmdWord} (h : ¬definedOpcode (opField c) = true) :
    decode c = .reserved (opField c) := by
  rw [definedOpcode_iff] at h
  unfold decode
  split
  case h_14 => rfl
  all_goals omega

theorem decode_eq_reserved_iff (c : CmdWord) :
    decode c = .reserved (opField c) ↔ ¬definedOpcode (opField c) = true := by
  refine ⟨fun h hd => ?_, decode_of_not_defined⟩
  obtain ⟨i, hi⟩ := decode_of_defined hd
  rw [hi] at h
  cases h

/-- The reserved ranges of R70 are what the opcode map leaves. -/
theorem not_definedOpcode_iff (op : BitVec 8) :
    ¬definedOpcode op = true ↔ op.toNat = 0x00 ∨ (0x09 ≤ op.toNat ∧ op.toNat ≤ 0x0F) ∨ 0x15 ≤ op.toNat := by
  rw [definedOpcode_iff]
  omega

theorem eq_ofNat_of_toNat_eq {n : Nat} {op : BitVec 8} (h : op.toNat = n) : op = BitVec.ofNat 8 n := by
  subst h
  simp

/-- What a word decodes to is encoded as the word without the bits its opcode ignores: a row of the opcode map and the
same row of the encoder name the same slots. -/
theorem encode_of_decode {c : CmdWord} {i : Instr} (h : decode c = .instr i) :
    encode i = c &&& usedBits (opField c) := by
  unfold decode at h
  split at h
  case h_14 => cases h
  all_goals
    next hop =>
    cases h
    simp only [usedBits, hop, and_formatK, opcode_and_ones, slot_and_ones, slot_and_zero, encode, hertzOperand,
      hertzHigh_append, hertzLow_append, maskOperand, maskSlot_getLsbD_zero]
    exact congrArg (formatK · _ _ _ _) (eq_ofNat_of_toNat_eq hop).symm

/-! ### Decoder and encoder (R69, R72) -/

/-- Settles O1: the opcode selects the row, and the fields of the joined word are the operands. -/
theorem decodeOfEncodeIsIdentity : Obligations.DecodeOfEncodeIsIdentity := by
  intro i
  have hop := opField_formatK
  cases i with
  | setch => rw [encode, decode_setch (hop ..), slotW_formatK, slotX_formatK]
  | getch => rw [encode, decode_getch (hop ..), slotW_formatK]
  | setrgb => rw [encode, decode_setrgb (hop ..), slotW_formatK, slotX_formatK, slotY_formatK, slotZ_formatK]
  | setrgball => rw [encode, decode_setrgball (hop ..), slotX_formatK, slotY_formatK, slotZ_formatK]
  | setbc => rw [encode, decode_setbc (hop ..), slotW_formatK, slotX_formatK, slotY_formatK, slotZ_formatK]
  | setbcall => rw [encode, decode_setbcall (hop ..), slotX_formatK, slotY_formatK, slotZ_formatK]
  | settmgrst => rw [encode, decode_settmgrst (hop ..), slotW_formatK]
  | reset => exact decode_reset (hop ..)
  | cfgbulk =>
    rw [encode, decode_cfgbulk (hop ..), hertzOperand_formatK, hertzHigh_append_hertzLow, slotY_formatK,
      maskOperand_formatK]
  | cfgword =>
    rw [encode, decode_cfgword (hop ..), hertzOperand_formatK, hertzHigh_append_hertzLow, slotY_formatK,
      maskOperand_formatK]
  | cfgbb => rw [encode, decode_cfgbb (hop ..), slotW_formatK, slotX_formatK, slotY_formatK, maskOperand_formatK]
  | endcfg => exact decode_endcfg (hop ..)
  | write => exact decode_write (hop ..)

/-- Settles O5: each word is the encoding of its command. -/
theorem sampleWordsDecode : Obligations.SampleWordsDecode :=
  have h := decodeOfEncodeIsIdentity
  ⟨h (.setch 23 0x1234), h (.setbc 0 10 20 30), h (.cfgbulk 10000000 3 false), h (.cfgbb 13 11 3 true), h .write⟩

theorem encode_injective {i j : Instr} (h : encode i = encode j) : i = j := by
  have hd := congrArg decode h
  rw [decodeOfEncodeIsIdentity, decodeOfEncodeIsIdentity] at hd
  exact Decoded.instr.inj hd

/-- An encoded command has a defined opcode, its own. -/
theorem opcode_statement : ∀ i : Instr, Laws.Opcode.Statement i
  | .setch _ _ => Laws.Opcode.setch _ _
  | .getch _ => Laws.Opcode.getch _
  | .setrgb _ _ _ _ => Laws.Opcode.setrgb _ _ _ _
  | .setrgball _ _ _ => Laws.Opcode.setrgball _ _ _
  | .setbc _ _ _ _ => Laws.Opcode.setbc _ _ _ _
  | .setbcall _ _ _ => Laws.Opcode.setbcall _ _ _
  | .settmgrst _ => Laws.Opcode.settmgrst _
  | .reset => Laws.Opcode.reset
  | .cfgbulk _ _ _ => Laws.Opcode.cfgbulk _ _ _
  | .cfgword _ _ _ => Laws.Opcode.cfgword _ _ _
  | .cfgbb _ _ _ _ => Laws.Opcode.cfgbb _ _ _ _
  | .endcfg => Laws.Opcode.endcfg
  | .write => Laws.Opcode.write

/-- Settles O2: a word that is zero in the ignored bits is its own masking, and an encoded command is a masking. -/
theorem assembledWordIsItsEncoding : Obligations.AssembledWordIsItsEncoding := by
  refine ⟨fun c h => ?_, fun i => ?_⟩
  · obtain ⟨hdef, hzero⟩ := (wellFormedWord_iff c).1 h
    obtain ⟨i, hi⟩ := decode_of_defined hdef
    exact ⟨i, hi, (encode_of_decode hi).trans (and_eq_self_of_and_not _ _ hzero)⟩
  · obtain ⟨hop, hdef⟩ := opcode_statement i
    have hmask := encode_of_decode (decodeOfEncodeIsIdentity i)
    refine ⟨(wellFormedWord_iff _).2 ⟨hop ▸ hdef, ?_⟩, hop⟩
    calc encode i &&& ~~~usedBits (opField (encode i))
      _ = encode i &&& usedBits (opField (encode i)) &&& ~~~usedBits (opField (encode i)) :=
        congrArg (· &&& ~~~usedBits (opField (encode i))) hmask
      _ = 0 := by rw [BitVec.and_assoc, BitVec.and_not_self]; exact BitVec.and_zero

/-- Settles O3: re-encoding masks, so words alike under the mask have one encoding, and the encoder is injective. -/
theorem ignoredBitsHaveNoEffect : Obligations.IgnoredBitsHaveNoEffect := by
  refine ⟨fun _ _ => encode_of_decode, fun c d hop hused => ?_⟩
  by_cases hdef : definedOpcode (opField c) = true
  · obtain ⟨i, hi⟩ := decode_of_defined hdef
    obtain ⟨j, hj⟩ := decode_of_defined (hop ▸ hdef)
    have hij : encode i = encode j := by rw [encode_of_decode hi, encode_of_decode hj, hused]
    rw [hi, hj, encode_injective hij]
  · rw [decode_of_not_defined hdef, decode_of_not_defined (hop ▸ hdef), hop]

/-- Settles O6: the reserved ranges are the opcodes that the map leaves, and the step drops a reserved word. -/
theorem reservedOpcodesDoNothing : Obligations.ReservedOpcodesDoNothing := by
  refine ⟨fun c => (decode_eq_reserved_iff c).trans (not_definedOpcode_iff _), fun s c rest hc hb hw hop => ?_⟩
  exact step_of_reserved hc hb hw (decode_of_not_defined ((not_definedOpcode_iff _).2 hop))

end Sys2Proof

/-! PROOFS. The rules of 30_encoding.md about the machine: the stored halves of a control word (R63), the bits of the
frame (R66), the response (R71) and the expansions of the pseudo-operations (R73). -/

namespace Sys2Proof.Machine

open Safety

/-! ### The control word: its halves and its brightness operands (R62, R63) -/

theorem ctlLow_toNat (cw : CtlWord) : (ctlLow cw).toNat = cw.toNat % 2 ^ 16 := by
  rw [ctlLow, BitVec.extractLsb'_toNat, Nat.shiftRight_zero]

theorem ctlHigh_toNat (cw : CtlWord) : (ctlHigh cw).toNat = cw.toNat / 2 ^ 16 := by
  have := cw.isLt
  rw [ctlHigh, BitVec.extractLsb'_toNat, Nat.shiftRight_eq_div_pow]
  omega

/-- Settles O25: the halves of the composed word, which is the sum of its fields. -/
theorem storedHalvesInFieldTerms : Obligations.StoredHalvesInFieldTerms := by
  intro chipIdx bcr bcg bcb s hwf hc
  have hlen : 14 * chipIdx.toNat + 12 + 1 < s.fb.length := by rw [wf_fb hwf]; omega
  have hcw := composeCtl_toNat s.fc bcr bcg bcb
  refine ⟨_, exec_setbc_of_lt hc bcr bcg bcb, ?_, ?_⟩
  · rw [readWord_setFb, putCtl_getD _ _ _ hlen, if_pos rfl, ctlLow_toNat, hcw]
    omega
  · rw [readWord_setFb, putCtl_getD _ _ _ hlen, if_neg (by omega), if_pos rfl, ctlHigh_toNat, hcw]
    omega

theorem composeCtl_and (fc : BitVec 5) (bcr bcg bcb : Word) :
    composeCtl fc (bcr &&& 0x7F) (bcg &&& 0x7F) (bcb &&& 0x7F) = composeCtl fc bcr bcg bcb := by
  simp only [composeCtl, brightness_and]

/-- Settles O30: the operands reach the frame buffer through the composer only. -/
theorem brightnessIsTruncatedToSevenBits : Obligations.BrightnessIsTruncatedToSevenBits := by
  intro chipIdx bcr bcg bcb s
  constructor
  · obtain hc | hc := Nat.lt_or_ge chipIdx.toNat s.chips
    · rw [exec_setbc_of_lt hc, exec_setbc_of_lt hc, composeCtl_and]
    · rw [exec_setbc_of_le hc, exec_setbc_of_le hc]
  · rw [exec_setbcall, exec_setbcall, composeCtl_and]

/-! ### The bits of the frame (R66) -/

/-- Bit `p` of the frame by words. -/
theorem frameBits_getElem? {s : State} {p : Nat} (h : p < 16 * s.fb.length) :
    (frameBits s.fb)[p]? = some ((readWord s (s.fb.length - 1 - p / 16)).getLsbD (15 - p % 16)) := by
  rw [frameBits, flatMap_getElem? _ 16 (by omega) length_wordBits, frameWords_getElem? (by omega)]
  exact wordBits_getElem? _ _ (by omega)

/-- Bit `q` of a control word from its most significant end stands in slot 13 first, then in slot 12. -/
theorem readCtl_getLsbD (s : State) (c : Nat) {q : Nat} (hq : q < 32) :
    (readCtl s c).getLsbD (31 - q) = (readWord s (14 * c + (13 - q / 16))).getLsbD (15 - q % 16) := by
  rw [readCtl, BitVec.getLsbD_append]
  by_cases h : q < 16
  · rw [if_neg (by omega), show q / 16 = 0 by omega, show 31 - q - 16 = 15 - q % 16 by omega]
  · rw [if_pos (by omega), show q / 16 = 1 by omega, show 31 - q = 15 - q % 16 by omega]

/-- Settles O38: a chip's part of the frame is its fourteen words from slot 13 down. -/
theorem frameBitPositions : Obligations.FrameBitPositions := by
  intro s hwf
  have hlen := wf_fb hwf
  refine ⟨by rw [length_frameBits, hlen]; omega, fun p hp => ?_⟩
  have hbit := frameBits_getElem? (s := s) (p := p) (by omega)
  rw [hlen] at hbit
  refine ⟨hbit, hbit.trans (congrArg some ?_)⟩
  split_ifs with hq
  · rw [readCtl_getLsbD s _ hq,
      show 14 * s.chips - 1 - p / 16 = 14 * (s.chips - 1 - p / 224) + (13 - p % 224 / 16) by omega,
      show p % 16 = p % 224 % 16 by omega]
  · rw [show 14 * s.chips - 1 - p / 16 = 14 * (s.chips - 1 - p / 224) + (11 - (p % 224 - 32) / 16) by omega,
      show p % 16 = (p % 224 - 32) % 16 by omega]

/-! ### The response (R71) -/

/-- The trace goes on from one state to the other without a response. -/
def NoResponse (s t : State) : Prop := ∃ events, t.out = s.out ++ events ∧ ∀ v, Event.rsp v ∉ events

theorem NoResponse.of_out_eq {s t : State} (h : t.out = s.out) : NoResponse s t := ⟨[], by simp [h], by simp⟩

theorem NoResponse.trans {s t u : State} (h₁ : NoResponse s t) (h₂ : NoResponse t u) : NoResponse s u := by
  obtain ⟨es, hes, hno⟩ := h₁
  obtain ⟨fs, hfs, hno'⟩ := h₂
  exact ⟨es ++ fs, by rw [hfs, hes, List.append_assoc], fun v => by simp [hno v, hno' v]⟩

theorem noResponse_emit {e : Event} (h : ∀ v, e ≠ .rsp v) (s : State) : NoResponse s (emit e s) :=
  ⟨[e], rfl, fun v => by simpa using (h v).symm⟩

theorem takeGrant_noResponse {s t : State} (h : takeGrant s = some t) : NoResponse s t :=
  .of_out_eq (by rw [takeGrant_eq_some h])

theorem guardBegin_noResponse (s : State) : NoResponse s (guardBegin s) := by
  rw [guardBegin_eq]
  exact ⟨_, rfl, fun v => by cases h : s.maskEn <;> simp [maskEvents]⟩

theorem guardEnd_noResponse (s : State) : NoResponse s (guardEnd s) := by
  rw [guardEnd_eq]
  exact ⟨_, rfl, fun v => by cases h : s.maskEn <;> simp [restoreEvents]⟩

theorem awaitDelay_noResponse (s : State) : NoResponse s (awaitDelay s) := by
  unfold awaitDelay
  split
  · next t ht => exact (takeGrant_noResponse ht).trans (.of_out_eq rfl)
  · exact .of_out_eq rfl

theorem settle_noResponse (s : State) : NoResponse s (settle s) :=
  (noResponse_emit (by simp) s).trans (awaitDelay_noResponse _)

theorem awaitBlock_noResponse (s : State) : NoResponse s (awaitBlock s) := by
  unfold awaitBlock
  split
  · next t ht => exact (takeGrant_noResponse ht).trans (settle_noResponse _)
  · exact .of_out_eq rfl

theorem offerBlock_noResponse (s : State) : NoResponse s (offerBlock s) := by
  unfold offerBlock
  split
  · next t ht =>
    have hblock : NoResponse t (staleStaging (emit (.block t.sb) t)) := noResponse_emit (by simp) t
    exact (takeGrant_noResponse ht).trans (hblock.trans (awaitBlock_noResponse _))
  · exact .of_out_eq rfl

theorem wordTransfer_noResponse (n : Nat) (s : State) : NoResponse s (wordTransfer n s) := by
  induction n generalizing s with
  | zero => exact (guardEnd_noResponse s).trans (settle_noResponse _)
  | succ n ih =>
    cases hg : takeGrant { s with tp := BitVec.ofNat 17 n } with
    | none =>
      rw [wordTransfer_succ_of_none hg]
      exact .of_out_eq rfl
    | some t =>
      have htp : NoResponse s { s with tp := BitVec.ofNat 17 n } := .of_out_eq rfl
      rw [wordTransfer_succ_of_some hg]
      exact (htp.trans (takeGrant_noResponse hg)).trans ((noResponse_emit (by simp) t).trans (ih _))

theorem bitbangWords_noResponse (n : Nat) (s : State) : NoResponse s (bitbangWords n s) := by
  rw [bitbangWords_eq]
  exact ⟨_, rfl, fun v => by simp [cellEvents]⟩

/-- No strategy responds: a transfer's events are the mask, words, blocks, pin levels and the delay. -/
theorem transfer_noResponse (s : State) : NoResponse s (transfer s) := by
  have hmasked : NoResponse s (guardBegin (setBusy s)) := guardBegin_noResponse (setBusy s)
  cases hm : s.mode with
  | hardwareBulk =>
    rw [transfer_of_bulk hm]
    exact offerBlock_noResponse (fillStaging (setBusy s))
  | hardwareWordwise =>
    rw [transfer_of_wordwise hm]
    exact hmasked.trans (wordTransfer_noResponse _ _)
  | softwareBitbang =>
    rw [transfer_of_bitbang hm]
    exact hmasked.trans ((bitbangWords_noResponse _ _).trans ((guardEnd_noResponse _).trans (settle_noResponse _)))

theorem rsp_not_mem_teardownEvents (s : State) (v : Word) : Event.rsp v ∉ teardownEvents s := by
  unfold teardownEvents
  split <;> simp

theorem configurePeripheral_noResponse (m : Mode) (hz : BitVec 32) (us : Word) (e : Bool) (s : State) :
    NoResponse s (configurePeripheral m hz us e s) := by
  rw [configurePeripheral_eq]
  exact ⟨_, List.append_assoc _ _ _, fun v => by simp [rsp_not_mem_teardownEvents]⟩

theorem configurePins_noResponse (c d us : Word) (e : Bool) (s : State) :
    NoResponse s (configurePins c d us e s) := by
  rw [configurePins_eq]
  exact ⟨_, List.append_assoc _ _ _, fun v => by simp [rsp_not_mem_teardownEvents]⟩

/-- No command but GETCH responds. -/
theorem exec_noResponse {i : Instr} {s t : State} (hi : ∀ idx, i ≠ .getch idx) (h : exec i s = .next t) :
    NoResponse s t := by
  cases i
  case setch =>
    cases h
    exact .of_out_eq (writeChannel_out _ _ _)
  case getch idx => exact absurd rfl (hi idx)
  case setrgb | setbc =>
    simp only [exec, execSetrgb, execSetbc] at h
    split at h <;> cases h <;> exact .of_out_eq rfl
  case setrgball | setbcall | settmgrst | reset =>
    cases h
    exact .of_out_eq rfl
  case cfgbulk | cfgword =>
    cases h
    exact configurePeripheral_noResponse _ _ _ _ _
  case cfgbb =>
    cases h
    exact configurePins_noResponse _ _ _ _ _
  case endcfg =>
    simp only [exec, execEndcfg] at h
    split at h <;> cases h
    · rw [(teardown_spec s).1]
      exact ⟨_, rfl, rsp_not_mem_teardownEvents s⟩
    · exact .of_out_eq rfl
    · exact .of_out_eq rfl
  case write =>
    obtain ⟨-, rfl⟩ | rfl := execWrite_cases h
    · exact transfer_noResponse s
    · exact .of_out_eq rfl

/-- Settles O54: GETCH adds one response to the trace, every other command only events that are none. -/
theorem onlyGetchResponds : Obligations.OnlyGetchResponds := by
  intro i s
  by_cases hi : ∃ idx, i = .getch idx
  · obtain ⟨idx, rfl⟩ := hi
    exact ⟨_, [.rsp (readChannel s idx.toNat)], exec_getch idx s, rfl, by simp⟩
  · obtain ⟨t, ht⟩ := exec_total i s
    obtain ⟨events, hout, hno⟩ := exec_noResponse (fun idx e => hi ⟨idx, e⟩) ht
    exact ⟨t, events, ht, hout, fun ⟨v, hv⟩ => absurd hv (hno v), fun h => absurd h hi⟩

/-! ### The pseudo-operations (R73) -/

theorem loop_add {α : Type} (f : Nat → α → α) (m n : Nat) (a : α) :
    loop f (m + n) a = loop (fun k => f (m + k)) n (loop f m a) := by
  induction n with
  | zero => rfl
  | succ n ih => rw [← Nat.add_assoc, loop, ih, loop]

/-- A loop over `n` groups of `m` is the loop of the groups' loops. -/
theorem loop_mul {α : Type} (f : Nat → α → α) (m n : Nat) (a : α) :
    loop f (m * n) a = loop (fun c => loop (fun k => f (m * c + k)) m) n a := by
  induction n with
  | zero => rfl
  | succ n ih => rw [Nat.mul_succ, loop_add, ih, loop]

theorem loop_congr {α : Type} {f g : Nat → α → α} {n : Nat} (h : ∀ k < n, f k = g k) (a : α) :
    loop f n a = loop g n a := by
  induction n with
  | zero => rfl
  | succ n ih => rw [loop, loop, h n (Nat.lt_succ_self n), ih fun k hk => h k (Nat.lt_succ_of_lt hk)]

theorem execAll_append {is : List Instr} {s t : State} (h : execAll is s = .next t) (js : List Instr) :
    execAll (is ++ js) s = execAll js t := by
  induction is generalizing s with
  | nil =>
    cases h
    rfl
  | cons i is ih =>
    obtain ⟨u, hu⟩ := exec_total i s
    simp only [List.cons_append, execAll, hu] at h ⊢
    exact ih h

theorem execAll_singleton (i : Instr) (s : State) : execAll [i] s = exec i s := by
  obtain ⟨t, ht⟩ := exec_total i s
  simp only [execAll, ht]

/-- Commands one after another, each of which does one pass of a loop over the frame buffer, do the loop. -/
theorem execAll_range {f : Nat → Instr} {g : Nat → List Word → List Word} {s : State} {n : Nat}
    (h : ∀ k < n, ∀ fb, exec (f k) (setFb fb s) = .next (setFb (g k fb) s)) :
    execAll ((List.range n).map f) s = .next (setFb (loop g n s.fb) s) := by
  induction n with
  | zero => rfl
  | succ n ih =>
    rw [List.range_succ, List.map_append, execAll_append (ih fun k hk => h k (Nat.lt_succ_of_lt hk)),
      List.map_singleton, execAll_singleton, h n (Nat.lt_succ_self n), loop]

/-- An index below a bound that the chip count gives fits an operand slot. -/
theorem toNat_slot {k m : Nat} (hk : k < m) (hm : m ≤ 2 ^ 16) : (BitVec.ofNat 16 k).toNat = k := by
  rw [BitVec.toNat_ofNat, Nat.mod_eq_of_lt (Nat.lt_of_lt_of_le hk hm)]

/-- SETRGB is the write of its LED's three channels, in range and out of range. -/
theorem exec_setrgb_eq_writeChannel (led r g b : Word) (s : State) :
    exec (.setrgb led r g b) s =
      .next (writeChannel (3 * led.toNat + 2) b
        (writeChannel (3 * led.toNat + 1) g (writeChannel (3 * led.toNat) r s))) := by
  obtain hled | hled := Nat.lt_or_ge led.toNat (4 * s.chips)
  · have hoff (k : Nat) (hk : k ≤ 2) :
        14 * ((3 * led.toNat + k) / 12) + (3 * led.toNat + k) % 12 =
          14 * (led.toNat / 4) + 3 * (led.toNat % 4) + k := by omega
    have hred : 14 * (3 * led.toNat / 12) + 3 * led.toNat % 12 = 14 * (led.toNat / 4) + 3 * (led.toNat % 4) :=
      hoff 0 (by omega)
    rw [exec_setrgb_of_some (ledBase_eq_some.2 ⟨hled, rfl⟩), writeChannel_of_lt (idx := 3 * led.toNat) (by omega),
      writeChannel_of_lt (idx := 3 * led.toNat + 1) (by rw [writeWord_chips]; omega),
      writeChannel_of_lt (by rw [writeWord_chips, writeWord_chips]; omega), hred, hoff 1 (by omega), hoff 2 (by omega)]
    rfl
  · rw [exec_setrgb_of_none (ledBase_eq_none.2 hled), writeChannel_of_le (idx := 3 * led.toNat) (by omega),
      writeChannel_of_le (idx := 3 * led.toNat + 1) (by omega), writeChannel_of_le (by omega)]

/-- The LEDs of all chips, one after another. -/
theorem putAllLeds_eq_loop (r g b : Word) (n : Nat) (fb : List Word) :
    putAllLeds r g b n fb = loop (fun led => putLed (14 * (led / 4) + 3 * (led % 4)) r g b) (4 * n) fb := by
  rw [loop_mul, putAllLeds]
  refine loop_congr (fun c _ => funext fun fb => loop_congr (fun k hk => ?_) fb) fb
  rw [show (4 * c + k) / 4 = c by omega, show (4 * c + k) % 4 = k by omega]

theorem exec_setrgball_eq_execAll {s : State} (hc : chipsOk s.chips = true) (r g b : Word) :
    exec (.setrgball r g b) s =
      execAll ((List.range (nled s.chips)).map fun led => .setrgb (BitVec.ofNat 16 led) r g b) s := by
  have hmax := (chipsOk_iff _).1 hc
  rw [exec_setrgball, putAllLeds_eq_loop]
  refine (execAll_range fun led hled fb => ?_).symm
  have hidx : (BitVec.ofNat 16 led).toNat = led := toNat_slot hled (by omega)
  exact exec_setrgb_of_some (s := setFb fb s) (ledBase_eq_some.2 (by rw [hidx]; exact ⟨hled, rfl⟩)) r g b

theorem exec_setbcall_eq_execAll {s : State} (hc : chipsOk s.chips = true) (bcr bcg bcb : Word) :
    exec (.setbcall bcr bcg bcb) s =
      execAll ((List.range s.chips).map fun c => .setbc (BitVec.ofNat 16 c) bcr bcg bcb) s := by
  have hmax := (chipsOk_iff _).1 hc
  rw [exec_setbcall, putAllCtl]
  refine (execAll_range fun c hlt fb => ?_).symm
  have hidx : (BitVec.ofNat 16 c).toNat = c := toNat_slot hlt (by omega)
  rw [exec_setbc_of_lt (by rw [hidx]; exact hlt), hidx]
  rfl

/-- The channels of the chips `0 .. n-1` set to zero, one channel after another. -/
def clearChannels (n : Nat) (fb : List Word) : List Word :=
  loop (fun i fb => fb.set (14 * (i / 12) + i % 12) 0) (12 * n) fb

@[simp] theorem length_clearChannels (n : Nat) (fb : List Word) : (clearChannels n fb).length = fb.length :=
  length_loop _ (by simp) _ fb

/-- A zero set in every channel. -/
theorem execAll_clear {s : State} (hc : chipsOk s.chips = true) :
    execAll ((List.range (nch s.chips)).map fun i => .setch (BitVec.ofNat 16 i) 0) s =
      .next (setFb (clearChannels s.chips s.fb) s) := by
  have hmax := (chipsOk_iff _).1 hc
  refine execAll_range fun i hi fb => ?_
  have hidx : (BitVec.ofNat 16 i).toNat = i := toNat_slot hi (by unfold nch; omega)
  rw [exec_setch, hidx, writeChannel_of_lt (by exact hi)]
  rfl

/-- Chip by chip: the twelve grayscale words of each. -/
theorem clearChannels_eq_loop (n : Nat) (fb : List Word) :
    clearChannels n fb = loop (fun c => loop (fun k fb => fb.set (14 * c + k) 0) 12) n fb := by
  rw [clearChannels, loop_mul]
  refine loop_congr (fun c _ => funext fun fb => loop_congr (fun k hk => ?_) fb) fb
  rw [show (12 * c + k) / 12 = c by omega, show (12 * c + k) % 12 = k by omega]

/-- The grayscale words of the chips `0 .. n-1` are zero then, control words and later offsets as before. -/
theorem clearChannels_getD (n : Nat) (fb : List Word) (h : 14 * n ≤ fb.length) (o : Nat) :
    (clearChannels n fb).getD o 0 = if o / 14 < n ∧ o % 14 ≤ 11 then 0 else fb.getD o 0 := by
  rw [clearChannels_eq_loop,
    loop_getD _ (fun slot w => if slot ≤ 11 then 0 else w) (fun c => length_loop _ (by simp) 12) _ n fb h]
  · split_ifs <;> first | rfl | omega
  · intro c fb hc o
    rw [clearSlots_getD c 12 fb (by omega) hc]
    split_ifs <;> first | rfl | omega

/-- The default device state chip by chip is every channel cleared, then every control word written. -/
theorem putAllDefault_eq (cw : CtlWord) {n : Nat} {fb : List Word} (h : 14 * n ≤ fb.length) :
    putAllDefault cw n fb = putAllCtl cw n (clearChannels n fb) := by
  refine fb_ext (by simp) fun o _ => ?_
  rw [putAllDefault_getD _ _ _ h, putAllCtl_getD _ _ _ (by simpa using h), clearChannels_getD _ _ h]
  split_ifs <;> first | rfl | omega

theorem exec_reset_eq_execAll {s : State} (hc : chipsOk s.chips = true) (hwf : Memory.wf s = true) :
    exec .reset s =
      execAll
        (((List.range (nch s.chips)).map fun i => .setch (BitVec.ofNat 16 i) 0) ++ [.setbcall 127 127 127]) s := by
  rw [execAll_append (execAll_clear hc), execAll_singleton, exec_setbcall, exec_reset,
    putAllDefault_eq _ (wf_fb hwf).ge]
  rfl

theorem fcOf_truth_eq_or (val : Word) : fcOf (truth val) = 0x12 ||| (if val ≠ 0 then 0x04 else 0) := by
  by_cases h : val = 0 <;> simp [fcOf, truth, h]

/-- Settles O21. -/
theorem pseudoOperationsExpand : Obligations.PseudoOperationsExpand := by
  intro s hc hwf
  refine ⟨fun idx v => exec_setch idx v s, fun led r g b => exec_setrgb_eq_writeChannel led r g b s,
    exec_setrgball_eq_execAll hc, exec_setbcall_eq_execAll hc, exec_reset_eq_execAll hc hwf, fun val => ?_⟩
  rw [← fcOf_truth_eq_or]
  rfl

end Sys2Proof.Machine

/-! PROOFS. The IndexMapper (40_index_mapper.md): `MAP` on its domain and outside it (R90, R91), `MAP` and its inverse as
one relation (R94) with what follows from it about `MAP` (R92), and the three channels of an LED (R95). -/

namespace Sys2Proof.Machine

/-! ### The domain of `MAP` (R90, R91) -/

/-- The check on the index is the check on the offset: both ask whether the chip is one of the block's. -/
theorem channel_lt_iff_offset_lt (c i : Nat) : i < 12 * c ↔ 14 * (i / 12) + i % 12 < 14 * c := by
  have hindex : i < 12 * c ↔ i / 12 < c := by omega
  have hoffset : 14 * (i / 12) + i % 12 < 14 * c ↔ i / 12 < c := by omega
  rw [hindex, hoffset]

/-- Settles O10. -/
theorem mapIsTheFormulaOnItsDomain : Obligations.MapIsTheFormulaOnItsDomain := fun c i =>
  ⟨fun hi => mapChannel_eq_some.2 ⟨hi, rfl⟩, mapChannel_eq_none.2, channel_lt_iff_offset_lt c i⟩

/-! ### The inverse of `MAP` (R94) -/

theorem unmapOffset_eq_some {c o i : Nat} :
    unmapOffset c o = some i ↔ (o < 14 * c ∧ o % 14 ≤ 11) ∧ i = 12 * (o / 14) + o % 14 := by
  simp only [unmapOffset, Bool.and_eq_true, decide_eq_true_eq, Option.ite_none_right_eq_some, Option.some.injEq,
    @eq_comm _ i]

theorem unmapOffset_eq_none {c o : Nat} : unmapOffset c o = none ↔ ¬(o < 14 * c ∧ o % 14 ≤ 11) := by
  simp only [unmapOffset, Bool.and_eq_true, decide_eq_true_eq, ite_eq_right_iff, reduceCtorEq, imp_false]

/-- `MAP` keeps the chip: the block of fourteen words is the block of twelve channels. -/
theorem mapChannel_chip {c i o : Nat} (h : mapChannel c i = some o) : o / 14 = i / 12 := by
  obtain ⟨-, rfl⟩ := mapChannel_eq_some.1 h
  omega

/-- `MAP` keeps the slot (R92 (c)). -/
theorem mapChannel_slot {c i o : Nat} (h : mapChannel c i = some o) : o % 14 = i % 12 := by
  obtain ⟨-, rfl⟩ := mapChannel_eq_some.1 h
  omega

theorem mapChannel_lt {c i o : Nat} (h : mapChannel c i = some o) : o < 14 * c := by
  obtain ⟨hi, rfl⟩ := mapChannel_eq_some.1 h
  exact (channel_lt_iff_offset_lt c i).1 hi

/-- `MAP` and its inverse are one relation between channels and offsets. -/
theorem unmapOffset_eq_some_iff_mapChannel {c o i : Nat} : unmapOffset c o = some i ↔ mapChannel c i = some o := by
  constructor
  · intro h
    obtain ⟨⟨ho, hslot⟩, rfl⟩ := unmapOffset_eq_some.1 h
    exact mapChannel_eq_some.2 ⟨by omega, by omega⟩
  · intro h
    have hchip := mapChannel_chip h
    have hslot := mapChannel_slot h
    exact unmapOffset_eq_some.2 ⟨⟨mapChannel_lt h, by omega⟩, by omega⟩

/-- Settles O12. -/
theorem mapInverse : Obligations.MapInverse := by
  intro c o ho
  constructor
  · intro hslot
    have hsome : unmapOffset c o = some (12 * (o / 14) + o % 14) := unmapOffset_eq_some.2 ⟨⟨ho, hslot⟩, rfl⟩
    exact ⟨hsome, unmapOffset_eq_some_iff_mapChannel.1 hsome⟩
  · intro hslot
    have hnone : unmapOffset c o = none := unmapOffset_eq_none.2 fun h => by omega
    refine ⟨hnone, fun i hi => ?_⟩
    rw [unmapOffset_eq_some_iff_mapChannel.2 hi] at hnone
    cases hnone

/-! ### `MAP` as an ordered bijection (R92) -/

/-- `MAP` skips two words for every chip before the channel's (R92 (f)). -/
theorem mapChannel_eq_add {c i o : Nat} (h : mapChannel c i = some o) : o = i + 2 * (i / 12) := by
  obtain ⟨-, rfl⟩ := mapChannel_eq_some.1 h
  omega

/-- R92 (b): the channel grows, and the words skipped before it do not get fewer. -/
theorem mapChannel_strictMono {c i j oi oj : Nat} (hi : mapChannel c i = some oi) (hj : mapChannel c j = some oj)
    (hlt : i < j) : oi < oj := by
  have hskip : i / 12 ≤ j / 12 := Nat.div_le_div_right hlt.le
  rw [mapChannel_eq_add hi, mapChannel_eq_add hj]
  omega

/-- `MAP` has an inverse, so two channels do not share a word. -/
theorem mapChannel_injective {c i j o : Nat} (hi : mapChannel c i = some o) (hj : mapChannel c j = some o) : i = j :=
  Option.some.inj
    ((unmapOffset_eq_some_iff_mapChannel.2 hi).symm.trans (unmapOffset_eq_some_iff_mapChannel.2 hj))

/-- R92 (e): a channel twelve on is the same slot of the next chip. -/
theorem mapChannel_add_twelve {c i oi oj : Nat} (hi : mapChannel c i = some oi)
    (hj : mapChannel c (i + 12) = some oj) : oj = oi + 14 := by
  rw [mapChannel_eq_add hi, mapChannel_eq_add hj, Nat.add_div_right i (by decide)]
  omega

/-- R92 (d): the words of the channels are those that the inverse takes to a channel. -/
theorem exists_mapChannel_eq_some {c o : Nat} : (∃ i, mapChannel c i = some o) ↔ o < 14 * c ∧ o % 14 ≤ 11 := by
  simp only [← unmapOffset_eq_some_iff_mapChannel, unmapOffset_eq_some, exists_and_left, exists_eq, and_true]

/-- Settles O11. -/
theorem mapIsAnOrderedBijectionOntoGrayscale : Obligations.MapIsAnOrderedBijectionOntoGrayscale := by
  refine fun c => ⟨fun i j oi oj hi hj => ?_, fun o => exists_mapChannel_eq_some⟩
  obtain ⟨hbound, hgray⟩ := exists_mapChannel_eq_some.1 ⟨i, hi⟩
  refine ⟨hbound, mapChannel_strictMono hi hj, ?_, mapChannel_slot hi, hgray, mapChannel_eq_add hi, ?_⟩
  · rintro rfl
    exact mapChannel_injective hi hj
  · rintro rfl
    exact mapChannel_add_twelve hi hj

/-! ### The three channels of an LED (R95) -/

/-- The channels of an LED are as far into the frame buffer as its red word, and none exists without the others. -/
theorem mapChannel_led (c led : Nat) {k : Nat} (hk : k ≤ 2) :
    mapChannel c (3 * led + k) = (ledBase c led).map (· + k) := by
  obtain hled | hled := Nat.lt_or_ge led (4 * c)
  · have hchip : (3 * led + k) / 12 = led / 4 := by omega
    have hslot : (3 * led + k) % 12 = 3 * (led % 4) + k := by omega
    rw [ledBase_eq_some.2 ⟨hled, rfl⟩, Option.map_some, mapChannel_eq_some, hchip, hslot, Nat.add_assoc]
    exact ⟨by omega, rfl⟩
  · rw [ledBase_eq_none.2 hled, Option.map_none, mapChannel_eq_none]
    omega

/-- Settles O13. -/
theorem ledIsThreeChannelsOfOneChip : Obligations.LedIsThreeChannelsOfOneChip := by
  intro c led k hk
  rw [mapChannel_led c led hk]
  constructor
  · intro hled
    rw [ledBase_eq_some.2 ⟨hled, rfl⟩]
    exact ⟨rfl, rfl, by omega⟩
  · intro hled
    rw [ledBase_eq_none.2 hled]
    exact ⟨rfl, rfl⟩

end Sys2Proof.Machine

/-! PROOFS. The CommandWordBuilder (41_command_word_builder.md): the composed control word (R100), the words its three
commands write and leave (R101 to R103), and the stored control word decoded (R104). -/

namespace Sys2Proof.Machine

/-! ### The composed control word (R100) -/

/-- Settles O24: the word is its five fields side by side, so its value is the sum of theirs. -/
theorem controlWordIsTheSumOfItsFields : Obligations.ControlWordIsTheSumOfItsFields := composeCtl_toNat

theorem brightness_toNat (slot : Word) : (brightness slot).toNat = slot.toNat % 128 := by
  rw [brightness, BitVec.extractLsb'_toNat, Nat.shiftRight_zero]

/-- At full brightness the low half is all ones, whatever `FC` is: `FC` stands in the high half. -/
theorem ctlLow_composeCtl_fullBrightness (fc : BitVec 5) :
    ctlLow (composeCtl fc fullBrightness fullBrightness fullBrightness) = 0xFFFF := by
  have hbright : (127 : Word).toNat = 127 := rfl
  have hones : (0xFFFF : Word).toNat = 0xFFFF := rfl
  apply BitVec.eq_of_toNat_eq
  rw [ctlLow_toNat, composeCtl_toNat, hbright, hones]
  omega

/-- The high halves of R103, one for each value of `FC` that SETTMGRST can write. -/
theorem ctlHigh_composeCtl_fcOf (val : Word) :
    ctlHigh (composeCtl (fcOf (truth val)) fullBrightness fullBrightness fullBrightness) =
      if val = 0 then 0x965F else 0x96DF := by
  rw [fcOf_truth]
  split_ifs
  · rfl
  · rfl

/-! ### SETBC (R101) -/

theorem readWord_putCtl {s : State} {c : Nat} (hwf : Memory.wf s = true) (hc : c < s.chips) (cw : CtlWord) (o : Nat) :
    readWord (setFb (putCtl (14 * c + 12) cw s.fb) s) o =
      if o = 14 * c + 12 then ctlLow cw else if o = 14 * c + 13 then ctlHigh cw else readWord s o := by
  rw [readWord_setFb, putCtl_getD _ _ _ (by rw [wf_fb hwf]; omega)]
  rfl

/-- Settles O26: in range the two halves are written, and out of range nothing is (20_memory.md R47). -/
theorem setbcWritesOneControlWord : Obligations.SetbcWritesOneControlWord := by
  refine ⟨fun _ => decode_setbc, fun chipIdx bcr bcg bcb s hwf => ?_⟩
  obtain hc | hc := Nat.lt_or_ge chipIdx.toNat s.chips
  · refine ⟨_, exec_setbc_of_lt hc bcr bcg bcb, rfl, length_putCtl _ _ _, fun o => ?_⟩
    simp only [readWord_putCtl hwf hc, hc, true_and, ctlLow, ctlHigh]
  · refine ⟨s, exec_setbc_of_le hc bcr bcg bcb, rfl, rfl, fun o => ?_⟩
    rw [if_neg fun h => hc.not_gt h.1, if_neg fun h => hc.not_gt h.1]

/-! ### Every control word (R102, R103) -/

/-- What SETBCALL and SETTMGRST have in common: the frame buffer after them keeps its length, holds the word's halves in
every chip's slots 12 and 13, and is as before elsewhere. -/
theorem readWord_of_fb_eq_putAllCtl {s t : State} {cw : CtlWord} (hwf : Memory.wf s = true)
    (hfb : t.fb = putAllCtl cw s.chips s.fb) :
    t.fb.length = s.fb.length ∧
      (∀ c, c < s.chips → readWord t (14 * c + 12) = ctlLow cw ∧ readWord t (14 * c + 13) = ctlHigh cw) ∧
      (∀ o, (14 * s.chips ≤ o ∨ o % 14 ≤ 11) → readWord t o = readWord s o) := by
  have hread (o : Nat) : readWord t o =
      if o / 14 < s.chips ∧ 12 ≤ o % 14 then (if o % 14 = 12 then ctlLow cw else ctlHigh cw) else readWord s o := by
    rw [readWord, hfb, putAllCtl_getD _ _ _ (wf_fb hwf).ge]
    rfl
  refine ⟨by rw [hfb, length_putAllCtl], fun c hc => ⟨?_, ?_⟩, fun o ho => ?_⟩
  · rw [hread, if_pos (by omega), if_pos (by omega)]
  · rw [hread, if_pos (by omega), if_neg (by omega)]
  · rw [hread, if_neg (by omega)]

/-- Settles O27. -/
theorem setbcallWritesEveryControlWord : Obligations.SetbcallWritesEveryControlWord :=
  ⟨fun _ => decode_setbcall, fun bcr bcg bcb s hwf =>
    ⟨_, exec_setbcall bcr bcg bcb s, rfl, readWord_of_fb_eq_putAllCtl hwf rfl⟩⟩

theorem exec_settmgrst_fb {val : Word} {s t : State} (h : exec (.settmgrst val) s = .next t) :
    t.fb =
      putAllCtl (composeCtl (fcOf (truth val)) fullBrightness fullBrightness fullBrightness) s.chips s.fb := by
  cases h
  rfl

/-- Settles O28: the word written everywhere is the one composed from the new `FC`. -/
theorem settmgrstWritesFcAndEveryControlWord : Obligations.SettmgrstWritesFcAndEveryControlWord := by
  refine ⟨fun _ => decode_settmgrst, fun val s hwf => ?_⟩
  have hexec := exec_settmgrst val s
  obtain ⟨hlen, hctl, hother⟩ := readWord_of_fb_eq_putAllCtl hwf (exec_settmgrst_fb hexec)
  refine ⟨_, hexec, rfl, hlen, exec_settmgrst_fc hexec, fun c hc => ?_, hother⟩
  rw [← ctlLow_composeCtl_fullBrightness (fcOf (truth val)), ← ctlHigh_composeCtl_fcOf]
  exact hctl c hc

/-! ### The stored control word (R104) -/

/-- Settles O29: the word read back is the word composed, and each field of it decodes. -/
theorem storedControlWordDecodes : Obligations.StoredControlWordDecodes := by
  intro chipIdx bcr bcg bcb s hwf hc
  refine ⟨_, exec_setbc_of_lt hc bcr bcg bcb, ?_⟩
  rw [readCtl_putCtl_same hwf hc, ctlMagic_composeCtl, ctlFc_composeCtl, ctlBcb_composeCtl, ctlBcg_composeCtl,
    ctlBcr_composeCtl]
  exact ⟨rfl, rfl, brightness_toNat bcb, brightness_toNat bcg, brightness_toNat bcr⟩

end Sys2Proof.Machine

/-! PROOFS. The channel operations (42_channel_ops.md): what every word reads as after SETCH, SETRGB, SETRGBALL and
RESET (R120, R122 to R124), and what GETCH responds (R121). -/

namespace Sys2Proof.Machine

/-! ### SETCH and GETCH (R120, R121) -/

theorem readWord_writeChannel {s : State} (hwf : Memory.wf s = true) (idx : Nat) (v : Word) (o : Nat) :
    readWord (writeChannel idx v s) o =
      if idx < 12 * s.chips ∧ o = 14 * (idx / 12) + idx % 12 then v else readWord s o := by
  obtain h | h := Nat.lt_or_ge idx (12 * s.chips)
  · have hlen : 14 * (idx / 12) + idx % 12 < s.fb.length := by
      rw [wf_fb hwf]
      omega
    rw [writeChannel_of_lt h, writeWord_read]
    simp only [h, hlen, true_and, and_true]
  · rw [writeChannel_of_le h, if_neg fun e => h.not_gt e.1]

/-- Settles O14. -/
theorem setchWritesTheMappedWord : Obligations.SetchWritesTheMappedWord := by
  refine ⟨fun _ => decode_setch, fun idx val s hwf => ?_⟩
  obtain ⟨hframe, hlen⟩ := writeChannel_frame idx.toNat val s
  exact ⟨_, exec_setch idx val s, hframe, hlen, readWord_writeChannel hwf idx.toNat val⟩

/-- Settles O15. -/
theorem getchRespondsTheMappedWord : Obligations.GetchRespondsTheMappedWord := by
  refine ⟨fun _ => decode_getch, fun idx s => ?_⟩
  rw [exec_getch, readChannel_eq]

/-! ### SETRGB (R122) -/

theorem readWord_putLed {s : State} {led : Nat} (hwf : Memory.wf s = true) (h : led < 4 * s.chips) (r g b : Word)
    (o : Nat) :
    readWord (setFb (putLed (14 * (led / 4) + 3 * (led % 4)) r g b s.fb) s) o =
      if o = 14 * (led / 4) + 3 * (led % 4) then r
      else if o = 14 * (led / 4) + 3 * (led % 4) + 1 then g
      else if o = 14 * (led / 4) + 3 * (led % 4) + 2 then b
      else readWord s o := by
  rw [readWord_setFb, putLed_getD _ _ _ _ _ (by rw [wf_fb hwf]; omega)]
  rfl

/-- Settles O17: in range the LED's three words are written, and out of range nothing is (20_memory.md R47). -/
theorem setrgbWritesOneLed : Obligations.SetrgbWritesOneLed := by
  refine ⟨fun _ => decode_setrgb, fun led r g b s hwf => ?_⟩
  obtain hled | hled := Nat.lt_or_ge led.toNat (4 * s.chips)
  · refine ⟨_, exec_setrgb_of_some (ledBase_eq_some.2 ⟨hled, rfl⟩) r g b, rfl, length_putLed _ _ _ _ _, fun o => ?_⟩
    simp only [readWord_putLed hwf hled, hled, true_and]
  · refine ⟨s, exec_setrgb_of_none (ledBase_eq_none.2 hled) r g b, rfl, rfl, fun o => ?_⟩
    rw [if_neg fun h => hled.not_gt h.1, if_neg fun h => hled.not_gt h.1, if_neg fun h => hled.not_gt h.1]

/-! ### SETRGBALL (R123) -/

theorem readWord_putAllLeds {s : State} (hwf : Memory.wf s = true) (r g b : Word) (o : Nat) :
    readWord (setFb (putAllLeds r g b s.chips s.fb) s) o =
      if o / 14 < s.chips ∧ o % 14 ≤ 11 then
        (if o % 14 % 3 = 0 then r else if o % 14 % 3 = 1 then g else b)
      else readWord s o := by
  rw [readWord_setFb, putAllLeds_getD _ _ _ _ _ (wf_fb hwf).ge]
  rfl

/-- A chip's twelve grayscale slots hold red, green and blue in turn. -/
theorem readWord_putAllLeds_slot {s : State} {c slot : Nat} (hwf : Memory.wf s = true) (hc : c < s.chips)
    (hslot : slot ≤ 11) (r g b : Word) :
    readWord (setFb (putAllLeds r g b s.chips s.fb) s) (14 * c + slot) =
      if slot % 3 = 0 then r else if slot % 3 = 1 then g else b := by
  have hchip : (14 * c + slot) / 14 = c := by omega
  have hmod : (14 * c + slot) % 14 = slot := by omega
  rw [readWord_putAllLeds hwf, hchip, hmod, if_pos ⟨hc, hslot⟩]

/-- Settles O18: the colour of a slot is its remainder modulo 3, and LED `k` of a chip begins at slot `3*k`. -/
theorem setrgballWritesEveryLed : Obligations.SetrgballWritesEveryLed := by
  refine ⟨fun _ => decode_setrgball, fun r g b s hwf =>
    ⟨_, exec_setrgball r g b s, rfl, length_putAllLeds _ _ _ _ _, fun c k hc hk => ⟨?_, ?_, ?_⟩, fun o ho => ?_⟩⟩
  · rw [readWord_putAllLeds_slot hwf hc (by omega), if_pos (by omega)]
  · rw [Nat.add_assoc, readWord_putAllLeds_slot hwf hc (by omega), if_neg (by omega), if_pos (by omega)]
  · rw [Nat.add_assoc, readWord_putAllLeds_slot hwf hc (by omega), if_neg (by omega), if_neg (by omega)]
  · rw [readWord_putAllLeds hwf, if_neg (by omega)]

/-! ### RESET (R124) -/

theorem readWord_putAllDefault {s : State} (hwf : Memory.wf s = true) (cw : CtlWord) (o : Nat) :
    readWord (setFb (putAllDefault cw s.chips s.fb) s) o =
      if o / 14 < s.chips then (if o % 14 ≤ 11 then 0 else if o % 14 = 12 then ctlLow cw else ctlHigh cw)
      else readWord s o := by
  rw [readWord_setFb, putAllDefault_getD _ _ _ (wf_fb hwf).ge]
  rfl

/-- Settles O19: the two high halves are those of SETTMGRST's two values of `FC`. -/
theorem resetCommandGivesTheDefaultDeviceState : Obligations.ResetCommandGivesTheDefaultDeviceState := by
  refine ⟨fun _ => decode_reset, fun s hwf =>
    ⟨_, exec_reset s, rfl, length_putAllDefault _ _ _, fun c k hc hk => ?_, fun c hc => ?_, fun o ho => ?_⟩⟩
  · rw [readWord_putAllDefault hwf, if_pos (by omega), if_pos (by omega)]
  · have hlow : readWord (setFb (putAllDefault (composeCtl s.fc 127 127 127) s.chips s.fb) s) (14 * c + 12) =
        ctlLow (composeCtl s.fc 127 127 127) := by
      rw [readWord_putAllDefault hwf, if_pos (by omega), if_neg (by omega), if_pos (by omega)]
    have hhigh : readWord (setFb (putAllDefault (composeCtl s.fc 127 127 127) s.chips s.fb) s) (14 * c + 13) =
        ctlHigh (composeCtl s.fc 127 127 127) := by
      rw [readWord_putAllDefault hwf, if_pos (by omega), if_neg (by omega), if_neg (by omega)]
    refine ⟨readCtl_putAllDefault hwf hc _, hlow.trans (ctlLow_composeCtl_fullBrightness _), fun hfc => ?_,
      fun hfc => ?_⟩
    · rw [hhigh, hfc]
      exact ctlHigh_composeCtl_fcOf 0
    · rw [hhigh, hfc]
      exact ctlHigh_composeCtl_fcOf 1
  · rw [readWord_putAllDefault hwf, if_neg (by omega)]

end Sys2Proof.Machine

/-! PROOFS. The Transferer (43_transferer.md): what its configuration commands do in which state, what a WRITE does with
how many answers, that a suspended one goes on as if it had never waited, and that every strategy puts the frame on the
wire. -/

namespace Sys2Proof.Machine

open Safety

/-! ### The configuration commands (R142 to R146) -/

/-- A configuration command for the peripheral, in the mode it configures (R142, R143, R145). -/
theorem configurePeripheral_spec (m : Mode) (hz : BitVec 32) (us : Word) (e : Bool) (s : State) :
    ∃ t, configurePeripheral m hz us e s = t ∧
      t = { s with
        spiHz := hz, settleUs := us, maskEn := e, mode := m, xstate := .configured,
        out := s.out ++ teardownEvents s ++ [.perCfg hz], sclk := t.sclk, sdata := t.sdata, freeCtr := t.freeCtr } ∧
      (¬(s.xstate = .configured ∧ s.mode = .softwareBitbang) →
        t.sclk = s.sclk ∧ t.sdata = s.sdata ∧ t.freeCtr = s.freeCtr) :=
  ⟨_, configurePeripheral_eq m hz us e s, rfl, (teardown_spec s).2⟩

theorem exec_endcfg_of_configured {s : State} (h : s.xstate = .configured) :
    exec .endcfg s = .next { teardown s with xstate := .ended } := by
  simp only [exec, execEndcfg, h]

theorem exec_endcfg_of_ne {s : State} (h : s.xstate ≠ .configured) : exec .endcfg s = .next s := by
  cases hx : s.xstate with
  | configured => exact absurd hx h
  | uninitialized | ended => simp only [exec, execEndcfg, hx]

theorem exec_write_of_ne {s : State} (h : s.xstate ≠ .configured) : exec .write s = .next s := by
  cases hx : s.xstate with
  | configured => exact absurd hx h
  | uninitialized | ended => simp only [exec, execWrite, hx]

/-- Settles O32. -/
theorem cfgbulkConfigures : Obligations.CfgbulkConfigures := by
  refine ⟨fun _ => decode_cfgbulk, fun hz us e s => ?_⟩
  obtain ⟨t, rfl, hfields, hlevels⟩ := configurePeripheral_spec .hardwareBulk hz us e s
  exact ⟨_, rfl, hfields, hlevels⟩

/-- Settles O33. -/
theorem cfgwordConfigures : Obligations.CfgwordConfigures := by
  refine ⟨fun _ => decode_cfgword, fun hz us e s => ?_⟩
  obtain ⟨t, rfl, hfields, hlevels⟩ := configurePeripheral_spec .hardwareWordwise hz us e s
  exact ⟨_, rfl, hfields, hlevels⟩

/-- Settles O34. -/
theorem cfgbbConfigures : Obligations.CfgbbConfigures :=
  ⟨fun _ => decode_cfgbb, fun c d us e s => ⟨_, congrArg Host.Outcome.next (configurePins_eq c d us e s), rfl⟩⟩

/-- Settles O35. -/
theorem endLeavesConfigured : Obligations.EndLeavesConfigured := by
  refine ⟨fun _ => decode_endcfg, fun s => ⟨fun hx => ⟨_, exec_endcfg_of_configured hx, ?_, fun hm => ?_⟩,
    exec_endcfg_of_ne⟩⟩
  · have hevents : teardownEvents s = [.teardown s.mode] := if_pos hx
    rw [(teardown_spec s).1, hevents]
  · exact (teardown_spec s).2 fun h => hm h.2

/-- Settles O40. -/
theorem writeOutsideConfiguredDoesNothing : Obligations.WriteOutsideConfiguredDoesNothing :=
  ⟨fun _ => decode_write, fun _ => exec_write_of_ne⟩

/-! ### Where each command leads (R141) -/

theorem TransferFrame.xstate_eq {s t : State} (h : TransferFrame s t) : t.xstate = s.xstate := by rw [h]

theorem TransferFrame.mode_eq {s t : State} (h : TransferFrame s t) : t.mode = s.mode := by rw [h]

theorem exec_write_frame {s t : State} (h : exec .write s = .next t) : TransferFrame s t := by
  obtain ⟨-, rfl⟩ | rfl := execWrite_cases h
  · exact transfer_frame s
  · exact .refl _

/-- Where END leads: out of `Configured`, with `MODE` kept (R146). -/
theorem exec_endcfg_state {s t : State} (h : exec .endcfg s = .next t) :
    t.mode = s.mode ∧ t.xstate = if s.xstate = .configured then .ended else s.xstate := by
  refine ⟨by rw [(execEndcfg_spec h).1], ?_⟩
  by_cases hx : s.xstate = .configured
  · rw [exec_endcfg_of_configured hx] at h
    cases h
    rw [if_pos hx]
  · rw [exec_endcfg_of_ne hx] at h
    cases h
    rw [if_neg hx]

/-- Settles O36: one clause for each configuration command and END; WRITE and the frame-buffer commands have the two
fields in their frames. -/
theorem transfererStateMachine : Obligations.TransfererStateMachine := by
  intro i s
  obtain ⟨t, ht⟩ := exec_total i s
  refine ⟨t, ht, ?_, ?_, ?_, ?_, ?_⟩
  · rintro ⟨hz, us, m, rfl⟩
    cases ht
    rw [configurePeripheral_eq]
    exact ⟨rfl, rfl⟩
  · rintro ⟨hz, us, m, rfl⟩
    cases ht
    rw [configurePeripheral_eq]
    exact ⟨rfl, rfl⟩
  · rintro ⟨c, d, us, m, rfl⟩
    cases ht
    rw [configurePins_eq]
    exact ⟨rfl, rfl⟩
  · rintro rfl
    exact exec_endcfg_state ht
  · rintro (hi | rfl)
    · rw [(exec_frameBuffer hi ht).1]
      exact ⟨rfl, rfl⟩
    · exact ⟨(exec_write_frame ht).xstate_eq, (exec_write_frame ht).mode_eq⟩

/-- The block in another state and mode of the Transferer. -/
def inTransferState (x : XState) (m : Mode) (s : State) : State := { s with xstate := x, mode := m }

theorem writeChannel_inTransferState (idx : Nat) (v : Word) (x : XState) (m : Mode) (s : State) :
    writeChannel idx v (inTransferState x m s) = inTransferState x m (writeChannel idx v s) := by
  obtain h | h := Nat.lt_or_ge idx (12 * s.chips)
  · rw [writeChannel_of_lt h, writeChannel_of_lt (s := inTransferState x m s) h]
    rfl
  · rw [writeChannel_of_le h, writeChannel_of_le (s := inTransferState x m s) h]

/-- A frame-buffer command reads the chip count, `FB` and `FC` alone. -/
theorem exec_inTransferState {i : Instr} {s t : State} (hi : ofTransferer i = false) (h : exec i s = .next t)
    (x : XState) (m : Mode) : exec i (inTransferState x m s) = .next (inTransferState x m t) := by
  cases i
  case setch idx val =>
    cases h
    exact congrArg Host.Outcome.next (writeChannel_inTransferState idx.toNat val x m s)
  case setrgb led r g b =>
    cases hbase : ledBase s.chips led.toNat with
    | some base =>
      cases (exec_setrgb_of_some hbase r g b).symm.trans h
      exact exec_setrgb_of_some (s := inTransferState x m s) hbase r g b
    | none =>
      cases (exec_setrgb_of_none hbase r g b).symm.trans h
      exact exec_setrgb_of_none (s := inTransferState x m s) hbase r g b
  case setbc chipIdx bcr bcg bcb =>
    obtain hlt | hle := Nat.lt_or_ge chipIdx.toNat s.chips
    · cases (exec_setbc_of_lt hlt bcr bcg bcb).symm.trans h
      exact exec_setbc_of_lt (s := inTransferState x m s) hlt bcr bcg bcb
    · cases (exec_setbc_of_le hle bcr bcg bcb).symm.trans h
      exact exec_setbc_of_le (s := inTransferState x m s) hle bcr bcg bcb
  case getch | setrgball | setbcall | settmgrst | reset =>
    cases h
    rfl
  all_goals cases hi

/-- Settles O37. -/
theorem frameBufferCommandsIgnoreTheTransferState : Obligations.FrameBufferCommandsIgnoreTheTransferState := by
  intro i s x m hi
  obtain ⟨t, ht⟩ := exec_total i s
  exact ⟨t, ht, exec_inTransferState hi ht x m⟩

/-! ### A WRITE reads the frame buffer only (R147, R157) -/

/-- Settles O46. -/
theorem transfersOnlyReadTheFrameBuffer : Obligations.TransfersOnlyReadTheFrameBuffer := by
  intro s
  obtain ⟨t, ht⟩ := exec_total .write s
  exact ⟨⟨t, ht, exec_write_frame ht⟩, fun hc hb => ⟨_, step_of_busy hc hb, resume_frame s⟩⟩

/-! ### The waits of a transfer (R159) -/

/-- The block with other answers to come. -/
def withGrants (g : Option Nat) (s : State) : State := { s with grants := g }

/-- The block with another record of the last wait. -/
def withWait (w : Wait) (s : State) : State := { s with wait := w }

/-- A wait for one answer: with it the transfer goes on as `go` says, without it it stays in the wait `w`. -/
def awaiting (w : Wait) (go : State → State) (s : State) : State :=
  match takeGrant s with
  | some t => go t
  | none => suspend w s

section

variable {w : Wait} {go : State → State} {s : State}

theorem awaiting_of_none (h : s.grants = none) : awaiting w go s = go s := by
  rw [awaiting, takeGrant_of_none h]

theorem awaiting_of_zero (h : s.grants = some 0) : awaiting w go s = suspend w s := by
  rw [awaiting, takeGrant_of_zero h]

theorem awaiting_of_succ {k : Nat} (h : s.grants = some (k + 1)) :
    awaiting w go s = go (withGrants (some k) s) := by
  rw [awaiting, takeGrant_of_succ h]
  rfl

end

/-- The block on its way: it stands in the trace, and the staging buffer's content is open (R150). -/
def sendBlock (s : State) : State := staleStaging (emit (.block s.sb) s)

/-- The word at offset `n` on its way (R152). -/
def sendWord (n : Nat) (s : State) : State := emit (.word (readWord s n)) s

theorem awaitDelay_eq (s : State) : awaitDelay s = awaiting .delayDone clearBusy s := rfl

theorem awaitBlock_eq (s : State) : awaitBlock s = awaiting .blockDone settle s := rfl

theorem offerBlock_eq (s : State) : offerBlock s = awaiting .blockReady (fun t => awaitBlock (sendBlock t)) s := rfl

theorem wordTransfer_succ (n : Nat) (s : State) :
    wordTransfer (n + 1) s =
      awaiting .wordReady (fun t => wordTransfer n (sendWord n t)) { s with tp := BitVec.ofNat 17 n } := by
  cases h : takeGrant { s with tp := BitVec.ofNat 17 n } with
  | some t => rw [wordTransfer_succ_of_some h, awaiting, h]; rfl
  | none => rw [wordTransfer_succ_of_none h, awaiting, h]

theorem resume_of_wordReady {s : State} (h : s.wait = .wordReady) : resume s = wordTransfer (s.tp.toNat + 1) s := by
  simp only [resume, h]

theorem resume_of_blockReady {s : State} (h : s.wait = .blockReady) : resume s = offerBlock s := by
  simp only [resume, h]

theorem resume_of_blockDone {s : State} (h : s.wait = .blockDone) : resume s = awaitBlock s := by
  simp only [resume, h]

theorem resume_of_delayDone {s : State} (h : s.wait = .delayDone) : resume s = awaitDelay s := by
  simp only [resume, h]

/-! ### The hang -/

theorem suspend_wait_self {s : State} {w : Wait} (h : s.wait = w) : suspend w s = s := by
  subst h
  rfl

/-- Without an answer each wait is entered again. -/
theorem resume_of_zero {s : State} (h : s.grants = some 0) : resume s = s := by
  cases hw : s.wait with
  | wordReady =>
    have htp : { s with tp := BitVec.ofNat 17 s.tp.toNat } = s := by rw [BitVec.ofNat_toNat, BitVec.setWidth_eq]
    rw [resume_of_wordReady hw, wordTransfer_succ, htp, awaiting_of_zero h, suspend_wait_self hw]
  | blockReady => rw [resume_of_blockReady hw, offerBlock_eq, awaiting_of_zero h, suspend_wait_self hw]
  | blockDone => rw [resume_of_blockDone hw, awaitBlock_eq, awaiting_of_zero h, suspend_wait_self hw]
  | delayDone => rw [resume_of_delayDone hw, awaitDelay_eq, awaiting_of_zero h, suspend_wait_self hw]

theorem step_of_hung {s : State} (hc : chipsOk s.chips = true) (h : Hung s) : step s = .next s := by
  rw [step_of_busy hc h.1, resume_of_zero h.2]

theorem run_succ_of_step {n : Nat} {s t : State} (h : step s = .next t) :
    Host.Core.run Sys2Proof.core (n + 1) s = Host.Core.run Sys2Proof.core n t := by
  have hcore : Sys2Proof.core.step s = .next t := h
  simp only [Host.Core.run, hcore]

/-- Settles O52, by induction on the number of steps. -/
theorem hungBlockStaysForEver : Obligations.HungBlockStaysForEver := by
  intro s n hc h
  induction n with
  | zero => rfl
  | succ n ih => rw [run_succ_of_step (step_of_hung hc h), ih]

/-! ### A suspended transfer goes on as if it had never waited (R158) -/

/-- The states differ in the record of the last wait at most. -/
def SameButWait (u v : State) : Prop := withWait v.wait u = v

/-- What `F` does does not rest on the record of the last wait. -/
def IgnoresWait (F : State → State) : Prop := ∀ (s : State) (w : Wait), SameButWait (F (withWait w s)) (F s)

/-- Left suspended by `F` after all of its `k` answers, the block given `g` is resumed to where `F` leads with `k` and
`g` answers. -/
def GoesOnFrom (F : State → State) (s : State) : Prop :=
  ∀ (k : Nat) (g : Option Nat), s.grants = some k → (F s).busy = true →
    SameButWait (resume (withGrants g (F s))) (F (withGrants (g.map fun j => k + j) s))

theorem awaiting_ignoresWait {w : Wait} {go : State → State} (h : IgnoresWait go) : IgnoresWait (awaiting w go) := by
  intro s w'
  cases hg : s.grants with
  | none =>
    rw [awaiting_of_none hg, awaiting_of_none (s := withWait w' s) hg]
    exact h s w'
  | some k =>
    cases k with
    | zero =>
      rw [awaiting_of_zero hg, awaiting_of_zero (s := withWait w' s) hg]
      rfl
    | succ k =>
      rw [awaiting_of_succ hg, awaiting_of_succ (s := withWait w' s) hg]
      exact h (withGrants (some k) s) w'

/-- A wait goes on from its own suspension, because `resume` enters it again; with an answer it goes on as what comes
after it does. -/
theorem awaiting_goesOnFrom {w : Wait} {go : State → State} {s : State} (hw : IgnoresWait go)
    (hgo : ∀ k, GoesOnFrom go (withGrants (some k) s))
    (hresume : ∀ g, resume (withWait w (withGrants g s)) = awaiting w go (withWait w (withGrants g s))) :
    GoesOnFrom (awaiting w go) s := by
  intro k g hk hb
  cases k with
  | zero =>
    have hall : (g.map fun j => 0 + j) = g := by simp
    rw [awaiting_of_zero hk, hall]
    change SameButWait (resume (withWait w (withGrants g s))) _
    rw [hresume]
    exact awaiting_ignoresWait hw (withGrants g s) w
  | succ k =>
    have hall : awaiting w go (withGrants (g.map fun j => k + 1 + j) s) =
        go (withGrants (g.map fun j => k + j) s) := by
      cases g with
      | none => exact awaiting_of_none rfl
      | some j => exact awaiting_of_succ (congrArg some (Nat.add_right_comm k 1 j))
    rw [awaiting_of_succ hk] at hb ⊢
    rw [hall]
    exact hgo k k g rfl hb

/-- A stage goes on after an operation `p` that neither takes nor reads an answer. -/
theorem GoesOnFrom.comp {F p : State → State} {s : State}
    (hp : ∀ g, p (withGrants g s) = withGrants g (p s)) (h : GoesOnFrom F (p s)) :
    GoesOnFrom (fun s => F (p s)) s := by
  intro k g hk hb
  have hself : p s = withGrants s.grants (p s) := hp s.grants
  have hgrants : (p s).grants = s.grants := by rw [hself]; rfl
  beta_reduce
  rw [hp]
  exact h k g (hgrants.trans hk) hb

theorem GoesOnFrom.congr {F G : State → State} {s : State} (h : ∀ g, F (withGrants g s) = G (withGrants g s))
    (hG : GoesOnFrom G s) : GoesOnFrom F s := by
  intro k g hk hb
  have hself : F s = G s := h s.grants
  rw [hself] at hb ⊢
  rw [h]
  exact hG k g hk hb

theorem clearBusy_ignoresWait : IgnoresWait clearBusy := fun _ _ => rfl

theorem clearBusy_goesOnFrom (s : State) : GoesOnFrom clearBusy s := nofun

theorem settle_ignoresWait : IgnoresWait settle :=
  fun s => awaiting_ignoresWait clearBusy_ignoresWait (emit (.delay s.settleUs) s)

theorem settle_goesOnFrom (s : State) : GoesOnFrom settle s :=
  GoesOnFrom.comp (F := awaitDelay) (p := fun s => emit (.delay s.settleUs) s) (fun _ => rfl)
    (awaiting_goesOnFrom clearBusy_ignoresWait (fun _ => clearBusy_goesOnFrom _) fun _ => rfl)

theorem awaitBlock_ignoresWait : IgnoresWait awaitBlock := awaiting_ignoresWait settle_ignoresWait

theorem awaitBlock_goesOnFrom (s : State) : GoesOnFrom awaitBlock s :=
  awaiting_goesOnFrom settle_ignoresWait (fun _ => settle_goesOnFrom _) fun _ => rfl

theorem offerBlock_goesOnFrom (s : State) : GoesOnFrom offerBlock s :=
  awaiting_goesOnFrom (fun t => awaitBlock_ignoresWait (sendBlock t))
    (fun _ => GoesOnFrom.comp (p := sendBlock) (fun _ => rfl) (awaitBlock_goesOnFrom _)) fun _ => rfl

theorem guardBegin_withGrants (s : State) (g : Option Nat) :
    guardBegin (withGrants g s) = withGrants g (guardBegin s) := by
  rw [guardBegin_eq, guardBegin_eq]
  rfl

theorem guardEnd_withGrants (s : State) (g : Option Nat) :
    guardEnd (withGrants g s) = withGrants g (guardEnd s) := by
  rw [guardEnd_eq, guardEnd_eq]
  rfl

theorem guardEnd_withWait (s : State) (w : Wait) : guardEnd (withWait w s) = withWait w (guardEnd s) := by
  rw [guardEnd_eq, guardEnd_eq]
  rfl

theorem bitbangWords_withGrants (n : Nat) (s : State) (g : Option Nat) :
    bitbangWords n (withGrants g s) = withGrants g (bitbangWords n s) := by
  rw [bitbangWords_eq, bitbangWords_eq]
  rfl

theorem wordTransfer_ignoresWait (n : Nat) : IgnoresWait (wordTransfer n) := by
  induction n with
  | zero =>
    intro s w
    rw [wordTransfer_zero, wordTransfer_zero, guardEnd_withWait]
    exact settle_ignoresWait (guardEnd s) w
  | succ n ih =>
    intro s w
    rw [wordTransfer_succ, wordTransfer_succ]
    exact awaiting_ignoresWait (fun t => ih (sendWord n t)) { s with tp := BitVec.ofNat 17 n } w

/-- The words from offset `n-1` down, as far as the offsets fit `tp`: `resume` takes up the word at `tp`. -/
theorem wordTransfer_goesOnFrom (n : Nat) (hn : n ≤ 2 ^ 17) (s : State) : GoesOnFrom (wordTransfer n) s := by
  induction n generalizing s with
  | zero => exact GoesOnFrom.comp (F := settle) (guardEnd_withGrants s) (settle_goesOnFrom _)
  | succ n ih =>
    have htp : (BitVec.ofNat 17 n).toNat = n := by
      rw [BitVec.toNat_ofNat, Nat.mod_eq_of_lt hn]
    refine GoesOnFrom.congr (fun _ => wordTransfer_succ n _)
      (GoesOnFrom.comp (p := fun t => { t with tp := BitVec.ofNat 17 n }) (fun _ => rfl)
        (awaiting_goesOnFrom (fun t => wordTransfer_ignoresWait n (sendWord n t))
          (fun _ => GoesOnFrom.comp (p := sendWord n) (fun _ => rfl) (ih (Nat.le_of_succ_le hn) _)) fun g => ?_))
    rw [resume_of_wordReady rfl]
    change wordTransfer ((BitVec.ofNat 17 n).toNat + 1) _ = _
    rw [htp, wordTransfer_succ]
    rfl

/-- A WRITE goes on from each of its waits. -/
theorem transfer_goesOnFrom {s : State} (hc : chipsOk s.chips = true) : GoesOnFrom transfer s := by
  cases hm : s.mode with
  | hardwareBulk =>
    exact .congr (fun g => transfer_of_bulk (s := withGrants g s) hm)
      (.comp (p := fun t => fillStaging (setBusy t)) (fun _ => rfl) (offerBlock_goesOnFrom _))
  | hardwareWordwise =>
    have hn : nw s.chips ≤ 2 ^ 17 := by
      have := (chipsOk_iff s.chips).1 hc
      unfold nw
      omega
    exact .congr (fun g => transfer_of_wordwise (s := withGrants g s) hm)
      (.comp (p := fun t => guardBegin (setBusy t)) (fun g => guardBegin_withGrants (setBusy s) g)
        (wordTransfer_goesOnFrom _ hn _))
  | softwareBitbang =>
    refine .congr (fun g => transfer_of_bitbang (s := withGrants g s) hm)
      (.comp (p := fun t => guardEnd (bitbangWords (nw s.chips) (guardBegin (setBusy t)))) (fun g => ?_)
        (settle_goesOnFrom _))
    have hbusy : setBusy (withGrants g s) = withGrants g (setBusy s) := rfl
    rw [hbusy, guardBegin_withGrants, bitbangWords_withGrants, guardEnd_withGrants]

/-- Settles O53: each stage of a transfer goes on from its own suspension, from the last stage (the settle delay) back
to the first. -/
theorem suspendedTransferGoesOnAsUninterrupted : Obligations.SuspendedTransferGoesOnAsUninterrupted := by
  intro s t k g hc hx hk ht hb
  cases (exec_write_of_configured hx).symm.trans ht
  have hchips : chipsOk (transfer s).chips = true := by rw [(transfer_frame s).chips_eq, hc]
  exact ⟨_, _, step_of_busy hchips hb, exec_write_of_configured hx, transfer_goesOnFrom hc k g hk hb⟩

/-! ### The settle delay, whatever answers are left (44_timing_guard.md R173) -/

theorem settle_of_succ {s : State} {k : Nat} (h : s.grants = some (k + 1)) :
    settle s = { s with out := s.out ++ [.delay s.settleUs], busy := false, grants := some k } := by
  rw [settle, awaitDelay_eq, awaiting_of_succ (s := emit (.delay s.settleUs) s) h]
  rfl

/-! ### A bulk WRITE (R150, R159) -/

theorem exec_write_bulk {s : State} (hx : s.xstate = .configured) (hm : s.mode = .hardwareBulk) :
    exec .write s = .next (offerBlock (fillStaging (setBusy s))) := by
  rw [exec_write_of_configured hx, transfer_of_bulk hm, bulkTransfer]

/-- A bulk WRITE whose block the peripheral has taken, with the answers `g` left. -/
def blockSent (g : Option Nat) (s : State) : State :=
  { s with
    sb := (List.range (nb s.chips)).map (Config.staleByte s.freeCtr), busy := true
    out := s.out ++ [.block (frameBytes s.fb)], grants := g, freeCtr := s.freeCtr + 1 }

theorem sendBlock_fillStaging (g : Option Nat) (s : State) :
    sendBlock (withGrants g (fillStaging (setBusy s))) = blockSent g s := by
  simp [sendBlock, withGrants, fillStaging, setBusy, staleStaging, emit, blockSent]

theorem blockSent_grants (g : Option Nat) (s : State) : (blockSent g s).grants = g := rfl

theorem exec_write_bulk_of_none {s : State} (hx : s.xstate = .configured) (hm : s.mode = .hardwareBulk)
    (hg : s.grants = none) : exec .write s = .next (settle (blockSent s.grants s)) := by
  rw [exec_write_bulk hx hm, offerBlock_eq, awaiting_of_none (s := fillStaging (setBusy s)) hg, awaitBlock_eq,
    awaiting_of_none (s := sendBlock (fillStaging (setBusy s))) hg]
  rfl

theorem exec_write_bulk_of_succ {s : State} {k : Nat} (hx : s.xstate = .configured) (hm : s.mode = .hardwareBulk)
    (hg : s.grants = some (k + 1)) : exec .write s = .next (awaitBlock (blockSent (some k) s)) := by
  rw [exec_write_bulk hx hm, offerBlock_eq, awaiting_of_succ (s := fillStaging (setBusy s)) hg, sendBlock_fillStaging]

theorem exec_write_bulk_of_one {s : State} (hx : s.xstate = .configured) (hm : s.mode = .hardwareBulk)
    (hg : s.grants = some 1) : exec .write s = .next (suspend .blockDone (blockSent (some 0) s)) := by
  rw [exec_write_bulk_of_succ hx hm hg, awaitBlock_eq, awaiting_of_zero (blockSent_grants _ s)]

theorem exec_write_bulk_of_succ_succ {s : State} {k : Nat} (hx : s.xstate = .configured)
    (hm : s.mode = .hardwareBulk) (hg : s.grants = some (k + 2)) :
    exec .write s = .next (settle (blockSent (some k) s)) := by
  rw [exec_write_bulk_of_succ hx hm hg, awaitBlock_eq, awaiting_of_succ (blockSent_grants _ s)]
  rfl

/-- Settles O41. -/
theorem bulkWriteSendsOneBlock : Obligations.BulkWriteSendsOneBlock := by
  intro s hwf hx hm hg
  refine ⟨_, exec_write_bulk_of_none hx hm hg, ?_, ?_⟩
  · rw [settle_of_none (by exact hg)]
    simp [blockSent]
  · rw [settle_of_none (by exact hg)]
    exact (List.length_map _).trans List.length_range

/-- Settles O51: one case for each number of answers. -/
theorem bulkTransferWaits : Obligations.BulkTransferWaits := by
  intro s k hx hm hg
  match k with
  | 0 => exact ⟨_, exec_write_bulk_of_zero hx hm hg, rfl, rfl, by simp⟩
  | 1 => exact ⟨_, exec_write_bulk_of_one hx hm hg, rfl, rfl, nofun, fun _ => ⟨rfl, rfl, rfl⟩, nofun, by omega⟩
  | 2 =>
    refine ⟨_, exec_write_bulk_of_succ_succ hx hm hg, ?_⟩
    rw [settle_of_zero (blockSent_grants _ s)]
    exact ⟨rfl, rfl, nofun, nofun, fun _ => ⟨rfl, rfl, List.append_assoc _ _ _⟩, by omega⟩
  | k + 3 =>
    refine ⟨_, exec_write_bulk_of_succ_succ hx hm hg, ?_⟩
    rw [settle_of_succ (blockSent_grants _ s)]
    exact ⟨rfl, rfl, nofun, by omega, by omega, fun _ => ⟨rfl, rfl, List.append_assoc _ _ _⟩⟩

/-! ### A word-wise WRITE (R152, R159) -/

/-- With an answer for every word the loop sends them all, whether the answers are counted or not. -/
theorem sendWords_of_enough {n : Nat} {s : State} (h : ∀ k, s.grants = some k → n ≤ k) :
    sendWords n s =
      ({ s with
          out := s.out ++ (wordsDown s n).map .word
          tp := if n = 0 then s.tp else 0
          grants := s.grants.map fun k => k - n }, true) := by
  cases hg : s.grants with
  | none =>
    rw [sendWords_of_none n s hg]
    simp [hg]
  | some k => exact sendWords_of_le n k s hg (h k hg)

/-- The request of the guard after a masked section: down, or as it was before where nothing is masked. -/
theorem irqMask_after_guard (maskEn irqMask : Bool) :
    (!maskEn && (maskEn || irqMask)) = if maskEn then false else irqMask := by
  cases maskEn <;> rfl

theorem wordsDown_guardBegin {s : State} (hwf : Memory.wf s = true) :
    wordsDown (guardBegin (setBusy s)) (nw s.chips) = frameWords s.fb := by
  rw [wordsDown_congr (s := s) (guardBegin_frame (setBusy s)).fb_eq, wordsDown_eq_frameWords (wf_fb hwf)]

theorem nw_ne_zero {c : Nat} (hc : chipsOk c = true) : nw c ≠ 0 := by
  have := (chipsOk_iff c).1 hc
  unfold nw
  omega

/-- With an answer for every word a word-wise WRITE comes to its settle delay with every word sent. -/
theorem exec_write_wordwise_of_enough {s : State} (hc : chipsOk s.chips = true) (hwf : Memory.wf s = true)
    (hx : s.xstate = .configured) (hm : s.mode = .hardwareWordwise)
    (hg : ∀ k, s.grants = some k → nw s.chips ≤ k) :
    exec .write s = .next (settle { s with
      out := s.out ++ maskEvents s.maskEn ++ (frameWords s.fb).map .word ++ restoreEvents s.maskEn
      busy := true, tp := 0, irqMask := if s.maskEn then false else s.irqMask
      grants := s.grants.map fun k => k - nw s.chips }) := by
  have hbegin : (guardBegin (setBusy s)).grants = s.grants := by rw [guardBegin_eq]; rfl
  rw [exec_write_of_configured hx, transfer_of_wordwise hm, wordTransfer, sendWords_of_enough (hbegin ▸ hg),
    wordsDown_guardBegin hwf, if_neg (nw_ne_zero hc)]
  dsimp only
  rw [guardEnd_eq, guardBegin_eq, ← irqMask_after_guard]
  rfl

/-- With fewer answers than words it stays before the next word. -/
theorem exec_write_wordwise_of_lt {s : State} {k : Nat} (hwf : Memory.wf s = true) (hx : s.xstate = .configured)
    (hm : s.mode = .hardwareWordwise) (hg : s.grants = some k) (hk : k < nw s.chips) :
    exec .write s = .next { s with
      out := s.out ++ maskEvents s.maskEn ++ ((frameWords s.fb).take k).map .word
      busy := true, tp := BitVec.ofNat 17 (nw s.chips - 1 - k), irqMask := s.maskEn || s.irqMask
      wait := .wordReady, grants := some 0 } := by
  have hbegin : (guardBegin (setBusy s)).grants = some k := by rw [guardBegin_eq]; exact hg
  rw [exec_write_of_configured hx, transfer_of_wordwise hm, wordTransfer, sendWords_of_lt _ k _ hbegin hk,
    wordsDown_guardBegin hwf, guardBegin_eq]
  rfl

/-- Settles O42. -/
theorem wordwiseWriteSendsEveryWord : Obligations.WordwiseWriteSendsEveryWord := by
  intro s hc hwf hx hm hg
  rw [exec_write_wordwise_of_enough hc hwf hx hm (by simp [hg]), settle_of_none (by simp [hg]), hg]
  rfl

/-- Settles O49: fewer answers than words, one for each word, and more. -/
theorem wordwiseTransferWaitsForThePeripheral : Obligations.WordwiseTransferWaitsForThePeripheral := by
  intro s k hc hwf hx hm hg
  have hnw : nw s.chips = 14 * s.chips := rfl
  obtain hlt | heq | hgt := Nat.lt_trichotomy k (nw s.chips)
  · refine ⟨_, exec_write_wordwise_of_lt hwf hx hm hg hlt, rfl,
      fun _ => ⟨rfl, rfl, rfl, toNat_tp hc (by omega), rfl, ?_⟩, by omega, by omega, by omega⟩
    cases s.maskEn <;> rfl
  · refine ⟨_, exec_write_wordwise_of_enough hc hwf hx hm (by simp [hg, heq]), ?_⟩
    rw [settle_of_zero (by simp [hg, heq])]
    exact ⟨rfl, by omega, fun _ => ⟨rfl, rfl⟩, fun _ => ⟨rfl, rfl, by simp [hg, heq]⟩, by omega⟩
  · have henough (j : Nat) (hj : s.grants = some j) : nw s.chips ≤ j := by
      cases hg.symm.trans hj
      exact hgt.le
    have hleft : k - nw s.chips = k - nw s.chips - 1 + 1 := by omega
    refine ⟨_, exec_write_wordwise_of_enough hc hwf hx hm henough, ?_⟩
    rw [settle_of_succ (k := k - nw s.chips - 1) (by rw [hg, ← hleft]; rfl)]
    exact ⟨rfl, by omega, fun _ => ⟨rfl, rfl⟩, by omega, fun _ => ⟨rfl, rfl⟩⟩

/-! ### A bit-banged WRITE (R153, R154, R159) -/

/-- Settles O43. -/
theorem bitbangWriteClocksEveryBit : Obligations.BitbangWriteClocksEveryBit := by
  intro s hc hwf hx hm hg
  rw [exec_write_of_configured hx, transfer_of_bitbang hm, bitbang_eq hc hwf, guardEnd_eq,
    settle_of_none (by exact hg), ← irqMask_after_guard]
  rfl

/-- The bit cells of a frame wait for nothing: the settle delay is reached with every answer left, every bit out and the
mask down. -/
theorem exec_write_bitbang {s : State} (hwf : Memory.wf s = true) (hx : s.xstate = .configured)
    (hm : s.mode = .softwareBitbang) :
    ∃ t, exec .write s = .next (settle t) ∧ t.grants = s.grants ∧ t.fb = s.fb ∧ t.settleUs = s.settleUs ∧
      t.busy = true ∧ t.irqMask = (if s.maskEn then false else s.irqMask) ∧
      t.out = s.out ++ maskEvents s.maskEn ++ (frameBits s.fb).flatMap cellEvents ++ restoreEvents s.maskEn := by
  refine ⟨_, by rw [exec_write_of_configured hx, transfer_of_bitbang hm], ?_⟩
  rw [guardEnd_eq, bitbangWords_eq, wordsDown_guardBegin hwf, guardBegin_eq]
  exact ⟨rfl, rfl, rfl, rfl, irqMask_after_guard _ _, rfl⟩

/-- Settles O50. -/
theorem bitbangTransferWaitsOnlyForTheDelay : Obligations.BitbangTransferWaitsOnlyForTheDelay := by
  intro s hwf hx hm hg
  obtain ⟨t, ht, hgrants, hfb, hus, hbusy, hmask, hout⟩ := exec_write_bitbang hwf hx hm
  refine ⟨_, ht, ?_⟩
  rw [settle_of_zero (hgrants.trans hg)]
  refine ⟨hbusy, rfl, hgrants.trans hg, hfb, hmask, ?_⟩
  dsimp only
  rw [hout, hus]
  rfl

/-! ### The wire (R156) -/

/-- With every answer given a WRITE emits its whole event list and is done. -/
theorem exec_write_events {s : State} (hc : chipsOk s.chips = true) (hwf : Memory.wf s = true)
    (hx : s.xstate = .configured) (hg : s.grants = none) :
    ∃ t, exec .write s = .next t ∧ t.busy = false ∧ t.out = s.out ++ transferEvents s := by
  cases hm : s.mode with
  | hardwareBulk =>
    obtain ⟨t, ht, hfields, -⟩ := bulkWriteSendsOneBlock s hwf hx hm hg
    exact ⟨t, ht, by rw [hfields], by rw [hfields, transferEvents_of_bulk hm]⟩
  | hardwareWordwise =>
    refine ⟨_, wordwiseWriteSendsEveryWord s hc hwf hx hm hg, rfl, ?_⟩
    rw [transferEvents_of_wordwise hm]
    simp only [maskEvents, restoreEvents, List.append_assoc]
  | softwareBitbang =>
    refine ⟨_, bitbangWriteClocksEveryBit s hc hwf hx hm hg, rfl, ?_⟩
    rw [transferEvents_of_bitbang hm]
    simp only [maskEvents, restoreEvents, List.append_assoc]
    rfl

theorem bitStream_maskEvents (sclk sdata maskEn : Bool) : bitStream sclk sdata (maskEvents maskEn) = [] := by
  cases maskEn <;> rfl

theorem levelsAfterAll_maskEvents (sclk sdata maskEn : Bool) :
    levelsAfterAll sclk sdata (maskEvents maskEn) = (sclk, sdata) := by
  cases maskEn <;> rfl

theorem bitStream_restoreEvents (sclk sdata maskEn : Bool) : bitStream sclk sdata (restoreEvents maskEn) = [] := by
  cases maskEn <;> rfl

theorem bitStream_delay (sclk sdata : Bool) (us : Word) : bitStream sclk sdata [.delay us] = [] := rfl

/-- A masked section puts on the wire what stands between its mask events. -/
theorem bitStream_guarded (sclk sdata maskEn : Bool) (es : List Event) (us : Word) :
    bitStream sclk sdata (maskEvents maskEn ++ es ++ restoreEvents maskEn ++ [.delay us]) =
      bitStream sclk sdata es := by
  simp only [bitStream_append, bitStream_maskEvents, levelsAfterAll_maskEvents, bitStream_restoreEvents,
    bitStream_delay, List.nil_append, List.append_nil]

/-- The event list of a WRITE puts the frame on the wire, in bit-bang from a low clock. -/
theorem bitStream_transferEvents {s : State} {sclk : Bool} (h : s.mode = .softwareBitbang → sclk = false)
    (sdata : Bool) : bitStream sclk sdata (transferEvents s) = frameBits s.fb := by
  cases hm : s.mode with
  | hardwareBulk =>
    rw [transferEvents_of_bulk hm]
    simp only [bitStream, eventBits, List.append_nil, frameBytes_bits]
  | hardwareWordwise =>
    rw [transferEvents_of_wordwise hm, bitStream_guarded, bitStream_words, frameBits]
  | softwareBitbang =>
    rw [transferEvents_of_bitbang hm, bitStream_guarded, h hm, bitStream_cells]

/-- Settles O44. -/
theorem strategiesAgreeOnTheWire : Obligations.StrategiesAgreeOnTheWire := by
  intro s hc hwf hx hg hclock
  obtain ⟨t, ht, hbusy, hout⟩ := exec_write_events hc hwf hx hg
  exact ⟨t, _, ht, hbusy, hout, bitStream_transferEvents (hclock hx) s.sdata⟩

end Sys2Proof.Machine

/-! PROOFS. The TimingGuard (44_timing_guard.md): the events of a transfer that completes, at once or after a
suspension. One lemma per stage says what the stage has emitted if it comes to the end of the transfer. -/

namespace Sys2Proof.Machine

open Safety

/-! ### A transfer that completes: its stages, from the last to the first -/

/-- If the stage `F` comes to the end of the transfer, it has emitted `es` and leaves the mask request at `mask`. -/
def EndsWith (F : State → State) (es : List Event) (mask : Bool) (s : State) : Prop :=
  (F s).busy = false → (F s).out = s.out ++ es ∧ (F s).irqMask = mask

section

variable {F p : State → State} {s : State} {es fs : List Event} {mask : Bool}

/-- A stage after an operation `p` that emits `es`. -/
theorem EndsWith.after (hp : (p s).out = s.out ++ es) (h : EndsWith F fs mask (p s)) :
    EndsWith (fun t => F (p t)) (es ++ fs) mask s := by
  intro hend
  obtain ⟨hout, hmask⟩ := h hend
  exact ⟨by rw [hout, hp, List.append_assoc], hmask⟩

/-- A wait ends the transfer only with its answer, and then as what comes after it does: without one `BUSY` stays
set. -/
theorem awaiting_endsWith {w : Wait} (hb : s.busy = true) (h : ∀ g, EndsWith F es mask (withGrants g s)) :
    EndsWith (awaiting w F) es mask s := by
  intro hend
  match hg : s.grants with
  | none =>
    rw [awaiting_of_none hg] at hend ⊢
    exact h s.grants hend
  | some 0 =>
    rw [awaiting_of_zero hg] at hend
    exact absurd (hb.symm.trans hend) nofun
  | some (k + 1) =>
    rw [awaiting_of_succ hg] at hend ⊢
    exact h (some k) hend

theorem awaitDelay_endsWith (hb : s.busy = true) : EndsWith awaitDelay [] s.irqMask s :=
  awaiting_endsWith hb fun _ _ => ⟨(List.append_nil _).symm, rfl⟩

theorem settle_endsWith (hb : s.busy = true) : EndsWith settle [.delay s.settleUs] s.irqMask s :=
  .after (F := awaitDelay) (p := fun t => emit (.delay t.settleUs) t) rfl
    (awaitDelay_endsWith (s := emit (.delay s.settleUs) s) hb)

theorem awaitBlock_endsWith (hb : s.busy = true) : EndsWith awaitBlock [.delay s.settleUs] s.irqMask s :=
  awaiting_endsWith hb fun g => settle_endsWith (s := withGrants g s) hb

theorem offerBlock_endsWith (hb : s.busy = true) :
    EndsWith offerBlock [.block s.sb, .delay s.settleUs] s.irqMask s :=
  awaiting_endsWith hb fun g =>
    .after (p := sendBlock) rfl (awaitBlock_endsWith (s := sendBlock (withGrants g s)) hb)

theorem guardEnd_settle_endsWith (hb : s.busy = true) :
    EndsWith (fun t => settle (guardEnd t)) (restoreEvents s.maskEn ++ [.delay s.settleUs])
      (!s.maskEn && s.irqMask) s := by
  have hguard := guardEnd_eq s
  refine .after (p := guardEnd) (by rw [hguard]) ?_
  rw [hguard]
  exact settle_endsWith hb

/-- The words from offset `n-1` down, the end of the critical section and the settle delay. -/
theorem wordTransfer_endsWith (n : Nat) (hb : s.busy = true) :
    EndsWith (wordTransfer n)
      ((wordsDown s n).map .word ++ (restoreEvents s.maskEn ++ [.delay s.settleUs])) (!s.maskEn && s.irqMask) s := by
  induction n generalizing s with
  | zero => exact guardEnd_settle_endsWith hb
  | succ n ih =>
    intro hend
    rw [wordTransfer_succ] at hend ⊢
    rw [wordsDown_succ]
    exact awaiting_endsWith (s := { s with tp := BitVec.ofNat 17 n }) hb
      (fun _ => .after (p := sendWord n) (es := [.word (readWord s n)]) rfl (ih hb)) hend

end

/-! ### A WRITE that completes in its own step -/

/-- The transfer of a WRITE is masked: `MASK_EN = 1`, in a strategy other than bulk (44_timing_guard.md R170, R171). -/
def masks (s : State) : Bool := s.maskEn && s.mode != .hardwareBulk

theorem masks_of_bulk {s : State} (h : s.mode = .hardwareBulk) : masks s = false := by simp [masks, h]

theorem masks_of_ne {s : State} (h : s.mode ≠ .hardwareBulk) : masks s = s.maskEn := by simp [masks, h]

/-- The events of the frame itself, by the strategy of `MODE`: the offsets below `14*C`, last first, whatever the size
of the storage. -/
def frameEvents (s : State) : List Event :=
  match s.mode with
  | .hardwareBulk => [.block (frameBytes s.fb)]
  | .hardwareWordwise => (wordsDown s (nw s.chips)).map .word
  | .softwareBitbang => ((wordsDown s (nw s.chips)).flatMap wordBits).flatMap cellEvents

theorem frameEvents_of_bulk {s : State} (h : s.mode = .hardwareBulk) :
    frameEvents s = [.block (frameBytes s.fb)] := by
  simp only [frameEvents, h]

theorem frameEvents_of_wordwise {s : State} (h : s.mode = .hardwareWordwise) :
    frameEvents s = (wordsDown s (nw s.chips)).map .word := by
  simp only [frameEvents, h]

theorem frameEvents_of_bitbang {s : State} (h : s.mode = .softwareBitbang) :
    frameEvents s = ((wordsDown s (nw s.chips)).flatMap wordBits).flatMap cellEvents := by
  simp only [frameEvents, h]

/-- The frame within its guard, up to the settle delay (44_timing_guard.md R171). -/
def guardedFrame (s : State) : List Event := maskEvents (masks s) ++ frameEvents s ++ restoreEvents (masks s)

theorem guardedFrame_of_masks {s : State} (h : masks s = true) :
    guardedFrame s = [.irqMask] ++ frameEvents s ++ [.irqRestore] := by
  rw [guardedFrame, h]
  rfl

theorem guardedFrame_of_not_masks {s : State} (h : masks s = false) : guardedFrame s = frameEvents s := by
  rw [guardedFrame, h]
  exact List.append_nil _

/-- A mask request that is lowered where it was raised is as before elsewhere. -/
theorem lower_raised_request (maskEn irqMask : Bool) : (!maskEn && (maskEn || irqMask)) = (!maskEn && irqMask) := by
  cases maskEn <;> rfl

/-- A transfer that completes has emitted the guarded frame and one settle delay, and lowered the mask request if it
raised it. -/
theorem transfer_endsWith (s : State) :
    EndsWith transfer (guardedFrame s ++ [.delay s.settleUs]) (!masks s && s.irqMask) s := by
  intro hend
  cases hm : s.mode with
  | hardwareBulk =>
    have hmasks := masks_of_bulk hm
    rw [transfer_of_bulk hm] at hend ⊢
    rw [guardedFrame_of_not_masks hmasks, frameEvents_of_bulk hm, hmasks]
    exact offerBlock_endsWith (s := fillStaging (setBusy s)) rfl hend
  | hardwareWordwise =>
    rw [transfer_of_wordwise hm, guardBegin_eq] at hend ⊢
    obtain ⟨hout, hmask⟩ := wordTransfer_endsWith (nw s.chips) (by rfl) hend
    rw [guardedFrame, masks_of_ne (by simp [hm]), frameEvents_of_wordwise hm]
    refine ⟨?_, hmask.trans (lower_raised_request s.maskEn s.irqMask)⟩
    rw [hout, wordsDown_congr (s := s) (by rfl)]
    simp [setBusy]
  | softwareBitbang =>
    rw [transfer_of_bitbang hm, bitbangWords_eq, guardBegin_eq] at hend ⊢
    obtain ⟨hout, hmask⟩ := guardEnd_settle_endsWith (by rfl) hend
    rw [guardedFrame, masks_of_ne (by simp [hm]), frameEvents_of_bitbang hm]
    refine ⟨?_, hmask.trans (lower_raised_request s.maskEn s.irqMask)⟩
    rw [hout, wordsDown_congr (s := s) (by rfl)]
    simp [setBusy]

theorem exec_write_completed {s t : State} (hx : s.xstate = .configured) (h : exec .write s = .next t)
    (hend : t.busy = false) :
    t.out = s.out ++ guardedFrame s ++ [.delay s.settleUs] ∧ t.irqMask = (!masks s && s.irqMask) := by
  cases (exec_write_of_configured hx).symm.trans h
  rw [List.append_assoc]
  exact transfer_endsWith s hend

/-! ### A suspended WRITE that completes in a later step -/

/-- The event list of a WRITE is the guarded frame and one settle delay. -/
theorem transferEvents_eq_guardedFrame {s : State} (hwf : Memory.wf s = true) :
    transferEvents s = guardedFrame s ++ [.delay s.settleUs] := by
  have hwords : wordsDown s (nw s.chips) = frameWords s.fb := wordsDown_eq_frameWords (wf_fb hwf)
  cases hm : s.mode with
  | hardwareBulk =>
    rw [transferEvents_of_bulk hm, guardedFrame_of_not_masks (masks_of_bulk hm), frameEvents_of_bulk hm]
    rfl
  | hardwareWordwise =>
    rw [transferEvents_of_wordwise hm, guardedFrame, masks_of_ne (by simp [hm]), frameEvents_of_wordwise hm, hwords]
  | softwareBitbang =>
    rw [transferEvents_of_bitbang hm, guardedFrame, masks_of_ne (by simp [hm]), frameEvents_of_bitbang hm, hwords,
      frameBits]

/-- A word-wise transfer with the words below offset `n` still to be sent: what it has emitted, and those words. -/
theorem eventsAbove_append_wordsDown {s : State} {n : Nat} (hwf : Memory.wf s = true) (hn : n ≤ nw s.chips) :
    eventsAbove n s ++ (wordsDown s n).map .word = maskEvents s.maskEn ++ (frameWords s.fb).map .word := by
  have hlen : s.fb.length = nw s.chips := wf_fb hwf
  rw [eventsAbove, wordsDown_eq_drop (hlen ▸ hn), hlen, List.append_assoc, ← List.map_append, List.take_append_drop]

/-- A suspended transfer that completes emits the rest of its event list, whatever it waited for. -/
theorem resume_completed {s : State} (hi : Inv s) (hb : s.busy = true) (hend : (resume s).busy = false) :
    ∃ rest, sentEvents s ++ rest = transferEvents s ∧ (resume s).out = s.out ++ rest := by
  obtain ⟨hs, ht⟩ := inv_iff.1 hi
  obtain ⟨-, hword, hready, hdone, -⟩ := ht.wait hb
  cases hw : s.wait with
  | wordReady =>
    obtain ⟨hm, htp, -⟩ := hword hw
    rw [resume_of_wordReady hw] at hend ⊢
    refine ⟨_, ?_, (wordTransfer_endsWith _ hb hend).1⟩
    rw [sentEvents_eq_eventsAbove hw, ← List.append_assoc, eventsAbove_append_wordsDown hs.wf htp,
      transferEvents_of_wordwise hm, List.append_assoc _ (restoreEvents _)]
  | blockReady =>
    rw [resume_of_blockReady hw] at hend ⊢
    refine ⟨_, ?_, (offerBlock_endsWith hb hend).1⟩
    rw [sentEvents_of_blockReady hw, transferEvents_of_bulk (hready hw).1, (ht.sent hb).2 hw]
    rfl
  | blockDone =>
    rw [resume_of_blockDone hw] at hend ⊢
    refine ⟨_, ?_, (awaitBlock_endsWith hb hend).1⟩
    rw [sentEvents_of_blockDone hw, transferEvents_of_bulk (hdone hw).1]
    rfl
  | delayDone =>
    rw [resume_of_delayDone hw] at hend ⊢
    refine ⟨_, ?_, (awaitDelay_endsWith hb hend).1⟩
    rw [sentEvents_of_delayDone hw, List.append_nil]

/-- What stood in the trace before a suspended WRITE is followed by its guarded frame and one settle delay once it has
completed; the mask request is down, as the invariant has it of an idle block. -/
theorem step_completed {s t : State} (hi : Inv s) (hb : s.busy = true) (h : step s = .next t) (hend : t.busy = false) :
    t.irqMask = false ∧
    ∃ before, s.out = before ++ sentEvents s ∧ sentEvents s <+: guardedFrame s ++ [.delay s.settleUs] ∧
      t.out = before ++ guardedFrame s ++ [.delay s.settleUs] := by
  obtain ⟨hs, ht⟩ := inv_iff.1 hi
  obtain ⟨before, hbefore⟩ := (ht.sent hb).1
  have hidle : IdleUnmasked t := (inv_iff.1 (step_keeps_inv hi h)).2.idle
  cases (step_of_busy hs.chips hb).symm.trans h
  obtain ⟨rest, hrest, hout⟩ := resume_completed hi hb hend
  rw [transferEvents_eq_guardedFrame hs.wf] at hrest
  refine ⟨hidle hend, before, hbefore.symm, ⟨rest, hrest⟩, ?_⟩
  rw [hout, ← hbefore, List.append_assoc, hrest, List.append_assoc]

/-! ### The settle delay (R173) and the interrupt mask (R170, R171, R175) -/

/-- The events that carry the frame: no mask event and no delay. -/
def Event.carriesFrame : Event → Bool
  | .word _ | .block _ | .data _ | .clk _ => true
  | _ => false

theorem carriesFrame_of_mem_frameEvents {s : State} {e : Event} (he : e ∈ frameEvents s) : e.carriesFrame = true := by
  cases hm : s.mode with
  | hardwareBulk =>
    rw [frameEvents_of_bulk hm, List.mem_singleton] at he
    subst he
    rfl
  | hardwareWordwise =>
    rw [frameEvents_of_wordwise hm, List.mem_map] at he
    obtain ⟨w, -, rfl⟩ := he
    rfl
  | softwareBitbang =>
    rw [frameEvents_of_bitbang hm, List.mem_flatMap] at he
    obtain ⟨b, -, hcell⟩ := he
    simp only [cellEvents, List.mem_cons, List.not_mem_nil, or_false] at hcell
    obtain rfl | rfl | rfl := hcell <;> rfl

theorem frameEvents_ne_mask (s : State) : ∀ e ∈ frameEvents s, e ≠ .irqMask ∧ e ≠ .irqRestore := by
  intro e he
  have hcarries := carriesFrame_of_mem_frameEvents he
  constructor <;> rintro rfl <;> cases hcarries

theorem delay_not_mem_guardedFrame (s : State) (us : Word) : Event.delay us ∉ guardedFrame s := by
  have hframe : Event.delay us ∉ frameEvents s := fun h => nomatch carriesFrame_of_mem_frameEvents h
  cases hmasks : masks s with
  | false => rwa [guardedFrame_of_not_masks hmasks]
  | true =>
    rw [guardedFrame_of_masks hmasks]
    simp [hframe]

/-- Settles O47: either way the transfer has emitted its guarded frame, which holds no delay, and then one delay. -/
theorem completedTransferEndsInOneSettleDelay : Obligations.CompletedTransferEndsInOneSettleDelay := by
  constructor
  · intro s t hx h hend
    exact ⟨guardedFrame s, (exec_write_completed hx h hend).1, delay_not_mem_guardedFrame s⟩
  · intro s t hi hb h hend
    obtain ⟨-, before, hbefore, hsent, hout⟩ := step_completed hi hb h hend
    exact ⟨before, guardedFrame s, hbefore, hsent, hout, delay_not_mem_guardedFrame s⟩

theorem masks_eq_true {s : State} (h : s.maskEn = true ∧ s.mode ≠ .hardwareBulk) : masks s = true :=
  (masks_of_ne h.2).trans h.1

theorem masks_eq_false {s : State} (h : s.maskEn = false ∨ s.mode = .hardwareBulk) : masks s = false := by
  obtain h | h := h
  · rw [masks, h, Bool.false_and]
  · exact masks_of_bulk h

/-- Settles O48: either way the transfer has emitted its guarded frame and one delay, and the guard stands around the
whole frame or not at all. -/
theorem maskEnclosesTheFrame : Obligations.MaskEnclosesTheFrame := by
  constructor
  · intro s t hx h hend
    obtain ⟨hout, hmask⟩ := exec_write_completed hx h hend
    refine ⟨frameEvents s, frameEvents_ne_mask s, fun hon => ?_, fun hoff => ?_⟩
    · rw [hout, hmask, guardedFrame_of_masks (masks_eq_true hon), masks_eq_true hon]
      simp
    · rw [hout, hmask, guardedFrame_of_not_masks (masks_eq_false hoff), masks_eq_false hoff]
      exact ⟨rfl, rfl⟩
  · intro s t hi hb h hend
    obtain ⟨hmask, before, hbefore, -, hout⟩ := step_completed hi hb h hend
    refine ⟨hmask, before, frameEvents s, hbefore, frameEvents_ne_mask s, fun hon => ?_, fun hoff => ?_⟩
    · rw [hout, guardedFrame_of_masks (masks_eq_true hon)]
      simp
    · rw [hout, guardedFrame_of_not_masks (masks_eq_false hoff)]

end Sys2Proof.Machine

/-! PROOFS. Exceptions (60_exceptions.md): there is no fault (R180), and no step is refused but for the chip count
(00_scope.md R5). -/

namespace Sys2Proof.Machine

theorem step_of_not_ok {s : State} (h : chipsOk s.chips = false) : step s = .refused .chipCount := by
  simp [step, h]

/-- Every step of a block with an admitted chip count has a next state (R180): the command handshake gives it for a
busy block, for an idle one and for one with a word to take. -/
theorem step_total {s : State} (hc : chipsOk s.chips = true) : ∃ t, step s = .next t := by
  obtain ⟨-, htake, hidle, hresume⟩ := commandHandshake s hc
  obtain hb | hb := Bool.eq_false_or_eq_true s.busy
  · obtain ⟨t, ht, -⟩ := hresume hb
    exact ⟨t, ht⟩
  · cases hw : s.cmds with
    | nil => exact ⟨s, hidle hb hw⟩
    | cons c rest =>
      obtain ⟨t, ht, -⟩ := htake c rest hb hw
      exact ⟨t, ht⟩

/-- Settles O9. -/
theorem everyCommandHasANextState : Obligations.EveryCommandHasANextState :=
  ⟨exec_total, fun _ => step_total, fun _ => step_of_not_ok⟩

end Sys2Proof.Machine

/-! PROOFS. Reset and hazards (70_reset_and_hazards.md): what no step undoes (R201), brightness under SETTMGRST (R206),
and the number of events of a transfer (R214 (c)). -/

namespace Sys2Proof.Machine

open Safety

/-! ### What only reset brings back (R201) -/

theorem readCtl_congr_fb {s t : State} (h : t.fb = s.fb) (c : Nat) : readCtl t c = readCtl s c :=
  readCtl_congr (fun o _ => by rw [readWord, readWord, h]) c

/-- A step that executes no command keeps `XSTATE` and the frame buffer. -/
theorem step_keeps_or_executes {s t : State} (h : step s = .next t) :
    (t.xstate = s.xstate ∧ t.fb = s.fb) ∨ ∃ i rest, exec i { s with cmds := rest } = .next t := by
  obtain ⟨-, rfl⟩ | ⟨-, -, rfl⟩ | ⟨-, _, _, _, -, -, rfl⟩ | ⟨-, _, rest, i, -, -, hexec⟩ := step_cases h
  · exact .inl ⟨(resume_frame s).xstate_eq, (resume_frame s).fb_eq⟩
  · exact .inl ⟨rfl, rfl⟩
  · exact .inl ⟨rfl, rfl⟩
  · exact .inr ⟨i, rest, hexec⟩

/-- No command leads to `Uninitialized`: the configuration commands lead to `Configured`, END from there to `Ended`, and
every other one keeps `XSTATE` (43_transferer.md R141). -/
theorem exec_uninitialized {i : Instr} {s t : State} (h : exec i s = .next t) (ht : t.xstate = .uninitialized) :
    s.xstate = .uninitialized := by
  obtain ⟨u, hu, hbulk, hword, hbb, hend, hkeep⟩ := transfererStateMachine i s
  cases hu.symm.trans h
  cases i
  case cfgbulk => exact absurd ((hbulk ⟨_, _, _, rfl⟩).1.symm.trans ht) nofun
  case cfgword => exact absurd ((hword ⟨_, _, _, rfl⟩).1.symm.trans ht) nofun
  case cfgbb => exact absurd ((hbb ⟨_, _, _, _, rfl⟩).1.symm.trans ht) nofun
  case endcfg =>
    have hx := (hend rfl).2
    split at hx
    · exact absurd (hx.symm.trans ht) nofun
    · exact hx.symm.trans ht
  case write => exact (hkeep (.inr rfl)).1.symm.trans ht
  all_goals exact (hkeep (.inl rfl)).1.symm.trans ht

theorem step_uninitialized {s t : State} (h : step s = .next t) (ht : t.xstate = .uninitialized) :
    s.xstate = .uninitialized := by
  obtain ⟨hx, -⟩ | ⟨i, rest, hexec⟩ := step_keeps_or_executes h
  · exact hx.symm.trans ht
  · exact exec_uninitialized (s := { s with cmds := rest }) hexec ht

/-- A step that changes a control word writes one that the composer made. -/
theorem step_readCtl {s t : State} (hwf : Memory.wf s = true) (h : step s = .next t) {c : Nat} (hc : c < s.chips) :
    readCtl t c = readCtl s c ∨ ctlMagic (readCtl t c) = 0x25 := by
  obtain ⟨-, hfb⟩ | ⟨i, rest, hexec⟩ := step_keeps_or_executes h
  · exact .inl (readCtl_congr_fb hfb c)
  · obtain ⟨hkept, -⟩ | ⟨bcr, bcg, bcb, hcomposed⟩ := exec_readCtl (s := { s with cmds := rest }) hwf hexec hc
    · exact .inl hkept
    · exact .inr (hcomposed ▸ ctlMagic_composeCtl _ bcr bcg bcb)

theorem ne_zero_of_ctlMagic {cw : CtlWord} (h : ctlMagic cw = 0x25) : cw ≠ 0 := by
  rintro rfl
  exact absurd h (by decide)

/-- Settles O58: a control word is kept or gets the magic, and a word with the magic is not zero. -/
theorem onlyResetLeadsBack : Obligations.OnlyResetLeadsBack := by
  intro s t hwf h
  refine ⟨step_uninitialized h, fun c hc => step_readCtl hwf h hc, fun c hc hne => ?_⟩
  obtain hkept | hmagic := step_readCtl hwf h hc
  · rwa [hkept]
  · exact ne_zero_of_ctlMagic hmagic

/-! ### Brightness under SETTMGRST (R206) -/

/-- What stood in the control-word slots has no part in the frame buffer once every control word is written. -/
theorem putAllCtl_congr {n : Nat} {fb fb' : List Word} (hlen : fb.length = 14 * n) (hlen' : fb'.length = fb.length)
    (h : ∀ o, o % 14 ≤ 11 → fb'.getD o 0 = fb.getD o 0) (cw : CtlWord) :
    putAllCtl cw n fb' = putAllCtl cw n fb := by
  refine fb_ext (by simpa using hlen') fun o ho => ?_
  rw [length_putAllCtl] at ho
  rw [putAllCtl_getD _ _ _ (by omega), putAllCtl_getD _ _ _ hlen.ge]
  split_ifs
  · rfl
  · rfl
  · exact h o (by omega)

/-- SETBC and SETBCALL change the frame buffer only (41_command_word_builder.md R101, R102). -/
theorem exec_brightness_frame {i : Instr} {s t : State}
    (hi : (∃ c r g b, i = .setbc c r g b) ∨ ∃ r g b, i = .setbcall r g b) (h : exec i s = .next t) :
    t = setFb t.fb s := by
  obtain ⟨c, r, g, b, rfl⟩ | ⟨r, g, b, rfl⟩ := hi
  · obtain hc | hc := Nat.lt_or_ge c.toNat s.chips
    · rw [exec_setbc_of_lt hc] at h
      cases h
      rfl
    · rw [exec_setbc_of_le hc] at h
      cases h
      rfl
  · cases h
    rfl

/-- SETTMGRST writes every control word and `FC`, so it does not see a command before it that has changed nothing
else. -/
theorem exec_settmgrst_after_brightness {i : Instr} {s t : State} (hwf : Memory.wf s = true)
    (hi : (∃ c r g b, i = .setbc c r g b) ∨ ∃ r g b, i = .setbcall r g b) (h : exec i s = .next t) (val : Word) :
    exec (.settmgrst val) t = exec (.settmgrst val) s := by
  have hcontrol : setsControl i = true := by
    obtain ⟨_, _, _, _, rfl⟩ | ⟨_, _, _, rfl⟩ := hi <;> rfl
  have hread (o : Nat) (ho : o % 14 ≤ 11) : t.fb.getD o 0 = s.fb.getD o 0 := exec_control_readWord hwf hcontrol h ho
  obtain ⟨-, -, hlen⟩ := exec_keeps h
  rw [exec_brightness_frame hi h, exec_settmgrst, exec_settmgrst, setFb_fb, setFb_chips,
    putAllCtl_congr (wf_fb hwf) hlen hread]
  rfl

/-- After SETTMGRST every control word is the one composed of the `FC` it has written, at full brightness
(41_command_word_builder.md R103). -/
theorem exec_settmgrst_readCtl {val : Word} {s t : State} (hwf : Memory.wf s = true)
    (h : exec (.settmgrst val) s = .next t) {c : Nat} (hc : c < s.chips) :
    readCtl t c = composeCtl t.fc fullBrightness fullBrightness fullBrightness := by
  cases h
  exact readCtl_putAllCtl hwf hc _

/-- Settles O31: SETTMGRST gives one state with and without the command before it, and composes every control word at
full brightness. -/
theorem settmgrstDiscardsBrightness : Obligations.SettmgrstDiscardsBrightness := by
  intro i val s hwf hi
  obtain ⟨t, ht⟩ := exec_total i s
  obtain ⟨u, hu⟩ := exec_total (.settmgrst val) s
  refine ⟨t, u, ht, (exec_settmgrst_after_brightness hwf hi ht val).trans hu, hu, fun c hc => ?_⟩
  rw [exec_settmgrst_readCtl hwf hu hc, ctlBcr_composeCtl, ctlBcg_composeCtl, ctlBcb_composeCtl, ctlFc_composeCtl]
  exact ⟨rfl, rfl, rfl, rfl⟩

/-! ### The number of events of a transfer (R214 (c)) -/

theorem settle_busy_of_none {s : State} (h : s.grants = none) : (settle s).busy = false := by rw [settle_of_none h]

/-- With every answer given a transfer completes, for every chip count (43_transferer.md R158). -/
theorem transfer_busy_of_none {s : State} (hg : s.grants = none) : (transfer s).busy = false := by
  cases hm : s.mode with
  | hardwareBulk =>
    rw [transfer_of_bulk hm, bulkTransfer, offerBlock_eq, awaiting_of_none (by exact hg), awaitBlock_eq,
      awaiting_of_none (by exact hg)]
    exact settle_busy_of_none hg
  | hardwareWordwise =>
    rw [transfer_of_wordwise hm, wordTransfer, guardBegin_eq, sendWords_of_none _ _ (by exact hg)]
    dsimp only
    rw [guardEnd_eq]
    exact settle_busy_of_none hg
  | softwareBitbang =>
    rw [transfer_of_bitbang hm, guardEnd_eq, bitbangWords_eq, guardBegin_eq]
    exact settle_busy_of_none hg

/-- The guard adds its two events where the transfer is masked. -/
theorem length_guardedFrame (s : State) :
    (guardedFrame s).length = (frameEvents s).length + if masks s then 2 else 0 := by
  cases hmasks : masks s with
  | false => rw [guardedFrame_of_not_masks hmasks]; rfl
  | true => simp [guardedFrame_of_masks hmasks]

/-- A bit of the frame is a bit cell of three events, and a word has sixteen bits: 48 events for each word. -/
theorem length_frameEvents_of_bitbang {s : State} (h : s.mode = .softwareBitbang) :
    (frameEvents s).length = 672 * s.chips := by
  rw [frameEvents_of_bitbang h, length_flatMap_const cellEvents 3 (fun _ => rfl),
    length_flatMap_const wordBits 16 length_wordBits, length_wordsDown]
  unfold nw
  omega

theorem length_frameEvents_of_wordwise {s : State} (h : s.mode = .hardwareWordwise) :
    (frameEvents s).length = 14 * s.chips := by
  rw [frameEvents_of_wordwise h, List.length_map, length_wordsDown]

/-- Settles O45: a completed transfer has emitted its guarded frame and one delay. -/
theorem transferEventCounts : Obligations.TransferEventCounts := by
  intro s _ hx hg
  have hexec := exec_write_of_configured hx
  obtain ⟨hout, -⟩ := exec_write_completed hx hexec (transfer_busy_of_none hg)
  refine ⟨_, hexec, ?_⟩
  rw [hout, List.length_append, List.length_append, List.length_singleton, length_guardedFrame]
  cases hm : s.mode with
  | hardwareBulk =>
    rw [masks_of_bulk hm, frameEvents_of_bulk hm]
    rfl
  | hardwareWordwise =>
    rw [masks_of_ne (by simp [hm]), length_frameEvents_of_wordwise hm]
    dsimp only
    omega
  | softwareBitbang =>
    rw [masks_of_ne (by simp [hm]), length_frameEvents_of_bitbang hm]
    dsimp only
    omega

end Sys2Proof.Machine
